-- ==== Sys2Proof/Word.lean ====
section
/-! DEFINITION. The bit-vector types of the engine (00_scope.md R8, R9): every register value, address, immediate and
instruction word is 32 bits, a byte is 8, a register number is 5. -/

namespace Sys2Proof

/-- A 32-bit quantity: register value, data address, instruction word (R9, XLEN = ILEN = 32 of R6). -/
abbrev Word := BitVec 32

/-- One byte of data memory (R32). -/
abbrev Byte := BitVec 8

/-- A register number, the 5-bit field that names one of x0 to x31 (R21, R82, R84, R85). -/
abbrev Reg := BitVec 5

end Sys2Proof
end

