-- ==== Sys2Proof/Config.lean ====
section
/-! DEFINITION. The configuration of the engine: the parameters 00_scope.md R6 marks OPEN, fixed before reset and constant
for the whole run (R20, R120 part 1). The state carries one configuration, so a statement about every state is a
statement about every configuration. Nothing else is left open: the engine has no free value (R132). -/

namespace Sys2Proof

/-- The open parameters of R6. `memInit` lists the bytes of MEM_INIT that are not 0 (the loader's policy, R323). -/
structure Config where
  /-- MEM_SIZE, the number of bytes of data memory. -/
  memSize : Nat
  /-- PROG, one 32-bit word per index; PROG_LEN is its length (R33). -/
  prog : List Word
  /-- SP_INIT, the reset value of x2 (R322). -/
  spInit : Word
  /-- MEM_INIT, as the list of its bytes that differ from 0. -/
  memInit : List Host.Cell
  deriving DecidableEq, Repr

/-- The ranges of R6: 1 ≤ MEM_SIZE ≤ 2^31 (D1) and PROG_LEN ≤ 2^29 (D2). 93_implementation_defined.md S10 and S11 ask a
model to refuse a configuration outside them. -/
abbrev Config.InRange (c : Config) : Prop :=
  1 ≤ c.memSize ∧ c.memSize ≤ 2 ^ 31 ∧ c.prog.length ≤ 2 ^ 29

/-- The configuration of `State.reset`. DESIGN CHOICE (assumption 1): MEM_SIZE is 128 KiB, the least of the sizes R6 quotes as
observed; the reserved gap below the top of memory is 16 bytes, the gap of 95_test_vectors.md. No program is loaded
and MEM_INIT is all zero (D4). Unsafe: another configuration is another machine. -/
def Config.standard : Config where
  memSize := 131072
  prog := []
  spInit := 0x0001FFF0#32
  memInit := []

end Sys2Proof
end

