-- ==== Sys2Proof/Syntax.lean ====
section
/-! DEFINITION. The instructions of the engine (00_scope.md R7), one constructor per row of spec/opcode_table.json, and the
types the decoder answers with. Operands stand in the assembler order of 30_encoding.md R109. Fields an instruction
ignores (the fence sets, the rd and rs1 of ECALL, the CSR number) are kept as operands, so that no bit of a word is lost. -/

namespace Sys2Proof

/-- The 47 instructions of R7. A branch or JAL offset is the signed byte offset itself, 13 or 21 bits with bit 0 = 0
(R89, R91); `imm20` is inst[31:12] (R90). -/
inductive Instr where
  -- format R, opcode 0x33 (R96)
  | add (rd rs1 rs2 : Reg)
  | sub (rd rs1 rs2 : Reg)
  | sll (rd rs1 rs2 : Reg)
  | slt (rd rs1 rs2 : Reg)
  | sltu (rd rs1 rs2 : Reg)
  | xor (rd rs1 rs2 : Reg)
  | srl (rd rs1 rs2 : Reg)
  | sra (rd rs1 rs2 : Reg)
  | or (rd rs1 rs2 : Reg)
  | and (rd rs1 rs2 : Reg)
  -- format I, opcode 0x13 (R97)
  | addi (rd rs1 : Reg) (imm : BitVec 12)
  | slti (rd rs1 : Reg) (imm : BitVec 12)
  | sltiu (rd rs1 : Reg) (imm : BitVec 12)
  | xori (rd rs1 : Reg) (imm : BitVec 12)
  | ori (rd rs1 : Reg) (imm : BitVec 12)
  | andi (rd rs1 : Reg) (imm : BitVec 12)
  | slli (rd rs1 : Reg) (shamt : BitVec 5)
  | srli (rd rs1 : Reg) (shamt : BitVec 5)
  | srai (rd rs1 : Reg) (shamt : BitVec 5)
  -- format I, opcode 0x03 (R98)
  | lb (rd rs1 : Reg) (imm : BitVec 12)
  | lh (rd rs1 : Reg) (imm : BitVec 12)
  | lw (rd rs1 : Reg) (imm : BitVec 12)
  | lbu (rd rs1 : Reg) (imm : BitVec 12)
  | lhu (rd rs1 : Reg) (imm : BitVec 12)
  -- format S, opcode 0x23 (R99)
  | sb (rs2 rs1 : Reg) (imm : BitVec 12)
  | sh (rs2 rs1 : Reg) (imm : BitVec 12)
  | sw (rs2 rs1 : Reg) (imm : BitVec 12)
  -- format B, opcode 0x63 (R100)
  | beq (rs1 rs2 : Reg) (offset : BitVec 13)
  | bne (rs1 rs2 : Reg) (offset : BitVec 13)
  | blt (rs1 rs2 : Reg) (offset : BitVec 13)
  | bge (rs1 rs2 : Reg) (offset : BitVec 13)
  | bltu (rs1 rs2 : Reg) (offset : BitVec 13)
  | bgeu (rs1 rs2 : Reg) (offset : BitVec 13)
  -- the four single-instruction opcodes (R101)
  | jal (rd : Reg) (offset : BitVec 21)
  | jalr (rd rs1 : Reg) (imm : BitVec 12)
  | lui (rd : Reg) (imm20 : BitVec 20)
  | auipc (rd : Reg) (imm20 : BitVec 20)
  -- format I, opcode 0x0F (R102); every field is ignored
  | fence (fm pred succ : BitVec 4) (rs1 rd : Reg)
  | fenceI (imm : BitVec 12) (rs1 rd : Reg)
  -- format I, opcode 0x73 (R103); rd and rs1 of ECALL and EBREAK are not checked, the CSR operands are ignored
  | ecall (rs1 rd : Reg)
  | ebreak (rs1 rd : Reg)
  | csrrw (rd : Reg) (csr : BitVec 12) (rs1 : Reg)
  | csrrs (rd : Reg) (csr : BitVec 12) (rs1 : Reg)
  | csrrc (rd : Reg) (csr : BitVec 12) (rs1 : Reg)
  | csrrwi (rd : Reg) (csr : BitVec 12) (uimm : BitVec 5)
  | csrrsi (rd : Reg) (csr : BitVec 12) (uimm : BitVec 5)
  | csrrci (rd : Reg) (csr : BitVec 12) (uimm : BitVec 5)
  deriving DecidableEq, Repr

/-- The six instruction formats and the tag of every other opcode (R13, R93). -/
inductive Format where
  | r | i | s | b | u | j | unknown
  deriving DecidableEq, Repr

/-- The record the document's decoder returns for every word (R80): the word, its six fields, one immediate, the format. -/
structure Record where
  raw : Word
  opcode : BitVec 7
  rd : Reg
  funct3 : BitVec 3
  rs1 : Reg
  rs2 : Reg
  funct7 : BitVec 7
  imm : Word
  format : Format
  deriving DecidableEq, Repr

/-- Why a word is no instruction: the two kinds of R104. Both run alike (R130). -/
inductive Unrecognised where
  /-- R104 (a): the opcode is none of the eleven of R93. -/
  | unknownOpcode
  /-- R104 (b): the opcode is known, its funct3, funct7 or immediate selects no instruction (R106). -/
  | unassignedFunction
  deriving DecidableEq, Repr

/-- One row of spec/opcode_table.json: a word `w` belongs to it when `w &&& mask = pattern` (R104). -/
structure OpcodeRow where
  mnemonic : String
  pattern : Word
  mask : Word
  deriving DecidableEq, Repr

end Sys2Proof
end

