-- ==== Sys2Proof/WellFormed.lean ====
section
/-! DEFINITION. Which terms of `Instr` some word encodes. Every register, shift amount and 12-bit or 20-bit immediate fits its
field by its type; the one further rule is that a branch or JAL offset is even (30_encoding.md R89, R91). -/

namespace Sys2Proof

/-- R89: bit 0 of a branch offset is fixed at 0. -/
def branchOffsetEven (offset : BitVec 13) : Bool := !offset.getLsbD 0

/-- R91: bit 0 of a JAL offset is fixed at 0. -/
def jumpOffsetEven (offset : BitVec 21) : Bool := !offset.getLsbD 0

/-- An instruction some 32-bit word encodes. -/
def Instr.wellFormed : Instr → Bool
  | .beq _ _ offset => branchOffsetEven offset
  | .bne _ _ offset => branchOffsetEven offset
  | .blt _ _ offset => branchOffsetEven offset
  | .bge _ _ offset => branchOffsetEven offset
  | .bltu _ _ offset => branchOffsetEven offset
  | .bgeu _ _ offset => branchOffsetEven offset
  | .jal _ offset => jumpOffsetEven offset
  | .add _ _ _ | .sub _ _ _ | .sll _ _ _ | .slt _ _ _ | .sltu _ _ _ => true
  | .xor _ _ _ | .srl _ _ _ | .sra _ _ _ | .or _ _ _ | .and _ _ _ => true
  | .addi _ _ _ | .slti _ _ _ | .sltiu _ _ _ | .xori _ _ _ | .ori _ _ _ | .andi _ _ _ => true
  | .slli _ _ _ | .srli _ _ _ | .srai _ _ _ => true
  | .lb _ _ _ | .lh _ _ _ | .lw _ _ _ | .lbu _ _ _ | .lhu _ _ _ => true
  | .sb _ _ _ | .sh _ _ _ | .sw _ _ _ => true
  | .jalr _ _ _ | .lui _ _ | .auipc _ _ => true
  | .fence _ _ _ _ _ | .fenceI _ _ _ | .ecall _ _ | .ebreak _ _ => true
  | .csrrw _ _ _ | .csrrs _ _ _ | .csrrc _ _ _ | .csrrwi _ _ _ | .csrrsi _ _ _ | .csrrci _ _ _ => true

end Sys2Proof
end

