-- ==== Sys2Proof/Decode.lean ====
section
/-! DEFINITION. The decoder and, after it, the encoder (30_encoding.md). The document's `decode` is total and returns a record of
fields for every word (R80), `decodeRecord`; `decode` picks the instruction by opcode, funct3, funct7 (R95 to R103, R126) or says
which of the two kinds of unrecognised word it is (R104). No byte order is involved: the program holds whole words (R66). -/

namespace Sys2Proof

/-! ### Fields (R81 to R86) and immediate fields (R87 to R91) -/

/-- R81: inst[6:0]. -/
def opcodeField (w : Word) : BitVec 7 := w.extractLsb' 0 7
/-- R82: inst[11:7]. -/
def rdField (w : Word) : Reg := w.extractLsb' 7 5
/-- R83: inst[14:12]. -/
def funct3Field (w : Word) : BitVec 3 := w.extractLsb' 12 3
/-- R84: inst[19:15]. -/
def rs1Field (w : Word) : Reg := w.extractLsb' 15 5
/-- R85: inst[24:20]. -/
def rs2Field (w : Word) : Reg := w.extractLsb' 20 5
/-- R86: inst[31:25]. -/
def funct7Field (w : Word) : BitVec 7 := w.extractLsb' 25 7

/-- R87: the 12 immediate bits inst[31:20]. -/
def immFieldI (w : Word) : BitVec 12 := w.extractLsb' 20 12
/-- R88: inst[31:25] ++ inst[11:7]. -/
def immFieldS (w : Word) : BitVec 12 := w.extractLsb' 25 7 ++ w.extractLsb' 7 5
/-- R89: inst[31] ++ inst[7] ++ inst[30:25] ++ inst[11:8] ++ 0. -/
def immFieldB (w : Word) : BitVec 13 :=
  w.extractLsb' 31 1 ++ w.extractLsb' 7 1 ++ w.extractLsb' 25 6 ++ w.extractLsb' 8 4 ++ 0#1
/-- R90: inst[31:12]. -/
def immFieldU (w : Word) : BitVec 20 := w.extractLsb' 12 20
/-- R91: inst[31] ++ inst[19:12] ++ inst[20] ++ inst[30:21] ++ 0. -/
def immFieldJ (w : Word) : BitVec 21 :=
  w.extractLsb' 31 1 ++ w.extractLsb' 12 8 ++ w.extractLsb' 20 1 ++ w.extractLsb' 21 10 ++ 0#1

/-- sext_12 (R10), the value of an I or S immediate (R87, R88). -/
def sext12 (imm : BitVec 12) : Word := imm.signExtend 32
/-- sext_13 (R10), the value of a branch offset (R89). -/
def sext13 (offset : BitVec 13) : Word := offset.signExtend 32
/-- sext_21 (R10), the value of a JAL offset (R91). -/
def sext21 (offset : BitVec 21) : Word := offset.signExtend 32
/-- R90: imm_U = inst[31:12] ++ 0x000. -/
def upperImm (imm20 : BitVec 20) : Word := imm20 ++ 0#12

/-- R93: the format is a function of the opcode alone. -/
def formatOf (opcode : BitVec 7) : Format :=
  if opcode = 0b0110011#7 then .r
  else if opcode = 0b1100111#7 ∨ opcode = 0b0000011#7 ∨ opcode = 0b0010011#7 ∨ opcode = 0b0001111#7
      ∨ opcode = 0b1110011#7 then .i
  else if opcode = 0b0100011#7 then .s
  else if opcode = 0b1100011#7 then .b
  else if opcode = 0b0110111#7 ∨ opcode = 0b0010111#7 then .u
  else if opcode = 0b1101111#7 then .j
  else .unknown

/-- R92: the one immediate of a word, chosen by its format; 0 where the format has none (D25). -/
def immediateOf (format : Format) (w : Word) : Word :=
  match format with
  | .i => sext12 (immFieldI w)
  | .s => sext12 (immFieldS w)
  | .b => sext13 (immFieldB w)
  | .u => upperImm (immFieldU w)
  | .j => sext21 (immFieldJ w)
  | .r => 0#32
  | .unknown => 0#32

/-- R80: the document's decoder, total, every field of every word. -/
def decodeRecord (w : Word) : Record where
  raw := w
  opcode := opcodeField w
  rd := rdField w
  funct3 := funct3Field w
  rs1 := rs1Field w
  rs2 := rs2Field w
  funct7 := funct7Field w
  imm := immediateOf (formatOf (opcodeField w)) w
  format := formatOf (opcodeField w)

/-! ### Recognition (R95 to R104) -/

/-- One choice per value of funct3, in the order 000 to 111. -/
def byFunct3 {α : Type} (f : BitVec 3) (c0 c1 c2 c3 c4 c5 c6 c7 : α) : α :=
  if f = 0b000#3 then c0 else if f = 0b001#3 then c1 else if f = 0b010#3 then c2 else if f = 0b011#3 then c3
  else if f = 0b100#3 then c4 else if f = 0b101#3 then c5 else if f = 0b110#3 then c6 else c7

/-- A function-field value that selects no instruction (R106). -/
def unassigned : Except Unrecognised Instr := .error .unassignedFunction

/-- The operands of a word, by the layout of its format (R94): rd, rs1, rs2 of format R; the shifts with an immediate count have
the count in the rs2 field. -/
def rForm (mk : Reg → Reg → Reg → Instr) (w : Word) : Except Unrecognised Instr :=
  .ok (mk (rdField w) (rs1Field w) (rs2Field w))
/-- rd, rs1 and the immediate of format I. -/
def iForm (mk : Reg → Reg → BitVec 12 → Instr) (w : Word) : Except Unrecognised Instr :=
  .ok (mk (rdField w) (rs1Field w) (immFieldI w))
/-- rs2, rs1 and the immediate of format S. -/
def sForm (mk : Reg → Reg → BitVec 12 → Instr) (w : Word) : Except Unrecognised Instr :=
  .ok (mk (rs2Field w) (rs1Field w) (immFieldS w))
/-- rs1, rs2 and the offset of format B. -/
def bForm (mk : Reg → Reg → BitVec 13 → Instr) (w : Word) : Except Unrecognised Instr :=
  .ok (mk (rs1Field w) (rs2Field w) (immFieldB w))
/-- rd, the CSR number inst[31:20], and rs1 or the 5-bit immediate inst[19:15] (R103). -/
def csrForm (mk : Reg → BitVec 12 → BitVec 5 → Instr) (w : Word) : Except Unrecognised Instr :=
  .ok (mk (rdField w) (immFieldI w) (rs1Field w))

/-- R96, opcode 0x33. -/
def recogniseOp (w : Word) : Except Unrecognised Instr :=
  if funct7Field w = 0b0000000#7 then
    byFunct3 (funct3Field w) (rForm .add w) (rForm .sll w) (rForm .slt w) (rForm .sltu w) (rForm .xor w) (rForm .srl w)
      (rForm .or w) (rForm .and w)
  else if funct7Field w = 0b0100000#7 then
    byFunct3 (funct3Field w) (rForm .sub w) unassigned unassigned unassigned unassigned (rForm .sra w) unassigned unassigned
  else unassigned

/-- R97, opcode 0x13. The three shifts need the whole funct7 (D13); their count is inst[24:20]. -/
def recogniseOpImm (w : Word) : Except Unrecognised Instr :=
  byFunct3 (funct3Field w) (iForm .addi w) (if funct7Field w = 0b0000000#7 then rForm .slli w else unassigned)
    (iForm .slti w) (iForm .sltiu w) (iForm .xori w)
    (if funct7Field w = 0b0000000#7 then rForm .srli w
     else if funct7Field w = 0b0100000#7 then rForm .srai w else unassigned)
    (iForm .ori w) (iForm .andi w)

/-- R98, opcode 0x03. -/
def recogniseLoad (w : Word) : Except Unrecognised Instr :=
  byFunct3 (funct3Field w) (iForm .lb w) (iForm .lh w) (iForm .lw w) unassigned (iForm .lbu w) (iForm .lhu w)
    unassigned unassigned

/-- R99, opcode 0x23. -/
def recogniseStore (w : Word) : Except Unrecognised Instr :=
  byFunct3 (funct3Field w) (sForm .sb w) (sForm .sh w) (sForm .sw w) unassigned unassigned unassigned unassigned unassigned

/-- R100, opcode 0x63. -/
def recogniseBranch (w : Word) : Except Unrecognised Instr :=
  byFunct3 (funct3Field w) (bForm .beq w) (bForm .bne w) unassigned unassigned (bForm .blt w) (bForm .bge w)
    (bForm .bltu w) (bForm .bgeu w)

/-- R101, opcode 0x67: funct3 must be 000 (D14). -/
def recogniseJalr (w : Word) : Except Unrecognised Instr :=
  if funct3Field w = 0b000#3 then iForm .jalr w else unassigned

/-- R102, opcode 0x0F: every other field is accepted whatever it holds (D15). -/
def recogniseFence (w : Word) : Except Unrecognised Instr :=
  if funct3Field w = 0b000#3 then
    .ok (.fence (w.extractLsb' 28 4) (w.extractLsb' 24 4) (w.extractLsb' 20 4) (rs1Field w) (rdField w))
  else if funct3Field w = 0b001#3 then .ok (.fenceI (immFieldI w) (rs1Field w) (rdField w))
  else unassigned

/-- R103, opcode 0x73: inst[31:20] tells ECALL from EBREAK (D11); rd and rs1 of those two are not checked. -/
def recogniseSystem (w : Word) : Except Unrecognised Instr :=
  byFunct3 (funct3Field w)
    (if immFieldI w = 0x000#12 then .ok (.ecall (rs1Field w) (rdField w))
     else if immFieldI w = 0x001#12 then .ok (.ebreak (rs1Field w) (rdField w)) else unassigned)
    (csrForm .csrrw w) (csrForm .csrrs w) (csrForm .csrrc w) unassigned (csrForm .csrrwi w) (csrForm .csrrsi w)
    (csrForm .csrrci w)

/-- The instruction of a word, or why the word is none (R95, R104, R126): total, and dependent on the fields of
`decodeRecord` alone. 40_engine.md R130 says what the other words do. -/
def decode (w : Word) : Except Unrecognised Instr :=
  if opcodeField w = 0x33#7 then recogniseOp w
  else if opcodeField w = 0x13#7 then recogniseOpImm w
  else if opcodeField w = 0x03#7 then recogniseLoad w
  else if opcodeField w = 0x23#7 then recogniseStore w
  else if opcodeField w = 0x63#7 then recogniseBranch w
  else if opcodeField w = 0x6F#7 then .ok (.jal (rdField w) (immFieldJ w))
  else if opcodeField w = 0x67#7 then recogniseJalr w
  else if opcodeField w = 0x37#7 then .ok (.lui (rdField w) (immFieldU w))
  else if opcodeField w = 0x17#7 then .ok (.auipc (rdField w) (immFieldU w))
  else if opcodeField w = 0x0F#7 then recogniseFence w
  else if opcodeField w = 0x73#7 then recogniseSystem w
  else .error .unknownOpcode

/-- What the decoder reads from an opcode-table word of `nbits` bits, the bits above them 0. Every instruction is one
32-bit word and the program store holds words, not bytes (R66, R80), so the word goes to `decode` whole. -/
def decodeTableWord (nbits w : Nat) : Option Instr := (decode (BitVec.ofNat 32 (w % 2 ^ nbits))).toOption

/-! ### The encoder (R111) -/

/-- `v` placed with its bit 0 at word bit `n`. -/
def place {k : Nat} (v : BitVec k) (n : Nat) : Word := v.setWidth 32 <<< n

/-- R111 encR. -/
def encR (f7 : BitVec 7) (rs2 rs1 : Reg) (f3 : BitVec 3) (rd : Reg) (op : BitVec 7) : Word :=
  place f7 25 ||| place rs2 20 ||| place rs1 15 ||| place f3 12 ||| place rd 7 ||| place op 0

/-- R111 encI. -/
def encI (imm : BitVec 12) (rs1 : Reg) (f3 : BitVec 3) (rd : Reg) (op : BitVec 7) : Word :=
  place imm 20 ||| place rs1 15 ||| place f3 12 ||| place rd 7 ||| place op 0

/-- R111 encS. -/
def encS (imm : BitVec 12) (rs2 rs1 : Reg) (f3 : BitVec 3) (op : BitVec 7) : Word :=
  place (imm.extractLsb' 5 7) 25 ||| place rs2 20 ||| place rs1 15 ||| place f3 12
    ||| place (imm.extractLsb' 0 5) 7 ||| place op 0

/-- R111 encB. -/
def encB (imm : BitVec 13) (rs2 rs1 : Reg) (f3 : BitVec 3) (op : BitVec 7) : Word :=
  place (imm.extractLsb' 12 1) 31 ||| place (imm.extractLsb' 5 6) 25 ||| place rs2 20 ||| place rs1 15 ||| place f3 12
    ||| place (imm.extractLsb' 1 4) 8 ||| place (imm.extractLsb' 11 1) 7 ||| place op 0

/-- R111 encU, given inst[31:12]. -/
def encU (imm20 : BitVec 20) (rd : Reg) (op : BitVec 7) : Word :=
  place imm20 12 ||| place rd 7 ||| place op 0

/-- R111 encJ. -/
def encJ (imm : BitVec 21) (rd : Reg) (op : BitVec 7) : Word :=
  place (imm.extractLsb' 20 1) 31 ||| place (imm.extractLsb' 1 10) 21 ||| place (imm.extractLsb' 11 1) 20
    ||| place (imm.extractLsb' 12 8) 12 ||| place rd 7 ||| place op 0

/-- The word of an instruction (R96 to R103). -/
def encode : Instr → Word
  | .add rd rs1 rs2 => encR 0b0000000#7 rs2 rs1 0b000#3 rd 0x33#7
  | .sub rd rs1 rs2 => encR 0b0100000#7 rs2 rs1 0b000#3 rd 0x33#7
  | .sll rd rs1 rs2 => encR 0b0000000#7 rs2 rs1 0b001#3 rd 0x33#7
  | .slt rd rs1 rs2 => encR 0b0000000#7 rs2 rs1 0b010#3 rd 0x33#7
  | .sltu rd rs1 rs2 => encR 0b0000000#7 rs2 rs1 0b011#3 rd 0x33#7
  | .xor rd rs1 rs2 => encR 0b0000000#7 rs2 rs1 0b100#3 rd 0x33#7
  | .srl rd rs1 rs2 => encR 0b0000000#7 rs2 rs1 0b101#3 rd 0x33#7
  | .sra rd rs1 rs2 => encR 0b0100000#7 rs2 rs1 0b101#3 rd 0x33#7
  | .or rd rs1 rs2 => encR 0b0000000#7 rs2 rs1 0b110#3 rd 0x33#7
  | .and rd rs1 rs2 => encR 0b0000000#7 rs2 rs1 0b111#3 rd 0x33#7
  | .addi rd rs1 imm => encI imm rs1 0b000#3 rd 0x13#7
  | .slti rd rs1 imm => encI imm rs1 0b010#3 rd 0x13#7
  | .sltiu rd rs1 imm => encI imm rs1 0b011#3 rd 0x13#7
  | .xori rd rs1 imm => encI imm rs1 0b100#3 rd 0x13#7
  | .ori rd rs1 imm => encI imm rs1 0b110#3 rd 0x13#7
  | .andi rd rs1 imm => encI imm rs1 0b111#3 rd 0x13#7
  | .slli rd rs1 shamt => encR 0b0000000#7 shamt rs1 0b001#3 rd 0x13#7
  | .srli rd rs1 shamt => encR 0b0000000#7 shamt rs1 0b101#3 rd 0x13#7
  | .srai rd rs1 shamt => encR 0b0100000#7 shamt rs1 0b101#3 rd 0x13#7
  | .lb rd rs1 imm => encI imm rs1 0b000#3 rd 0x03#7
  | .lh rd rs1 imm => encI imm rs1 0b001#3 rd 0x03#7
  | .lw rd rs1 imm => encI imm rs1 0b010#3 rd 0x03#7
  | .lbu rd rs1 imm => encI imm rs1 0b100#3 rd 0x03#7
  | .lhu rd rs1 imm => encI imm rs1 0b101#3 rd 0x03#7
  | .sb rs2 rs1 imm => encS imm rs2 rs1 0b000#3 0x23#7
  | .sh rs2 rs1 imm => encS imm rs2 rs1 0b001#3 0x23#7
  | .sw rs2 rs1 imm => encS imm rs2 rs1 0b010#3 0x23#7
  | .beq rs1 rs2 offset => encB offset rs2 rs1 0b000#3 0x63#7
  | .bne rs1 rs2 offset => encB offset rs2 rs1 0b001#3 0x63#7
  | .blt rs1 rs2 offset => encB offset rs2 rs1 0b100#3 0x63#7
  | .bge rs1 rs2 offset => encB offset rs2 rs1 0b101#3 0x63#7
  | .bltu rs1 rs2 offset => encB offset rs2 rs1 0b110#3 0x63#7
  | .bgeu rs1 rs2 offset => encB offset rs2 rs1 0b111#3 0x63#7
  | .jal rd offset => encJ offset rd 0x6F#7
  | .jalr rd rs1 imm => encI imm rs1 0b000#3 rd 0x67#7
  | .lui rd imm20 => encU imm20 rd 0x37#7
  | .auipc rd imm20 => encU imm20 rd 0x17#7
  | .fence fm pred succ rs1 rd => encI (fm ++ pred ++ succ) rs1 0b000#3 rd 0x0F#7
  | .fenceI imm rs1 rd => encI imm rs1 0b001#3 rd 0x0F#7
  | .ecall rs1 rd => encI 0x000#12 rs1 0b000#3 rd 0x73#7
  | .ebreak rs1 rd => encI 0x001#12 rs1 0b000#3 rd 0x73#7
  | .csrrw rd csr rs1 => encI csr rs1 0b001#3 rd 0x73#7
  | .csrrs rd csr rs1 => encI csr rs1 0b010#3 rd 0x73#7
  | .csrrc rd csr rs1 => encI csr rs1 0b011#3 rd 0x73#7
  | .csrrwi rd csr uimm => encI csr uimm 0b101#3 rd 0x73#7
  | .csrrsi rd csr uimm => encI csr uimm 0b110#3 rd 0x73#7
  | .csrrci rd csr uimm => encI csr uimm 0b111#3 rd 0x73#7

/-! ### The opcode table (R96 to R104), transcribed so that the decoder can be held against it -/

/-- The opcode-table rows of R96. -/
def opRows : List OpcodeRow := [
  ⟨"ADD", 0x00000033#32, 0xFE00707F#32⟩,
  ⟨"SUB", 0x40000033#32, 0xFE00707F#32⟩,
  ⟨"SLL", 0x00001033#32, 0xFE00707F#32⟩,
  ⟨"SLT", 0x00002033#32, 0xFE00707F#32⟩,
  ⟨"SLTU", 0x00003033#32, 0xFE00707F#32⟩,
  ⟨"XOR", 0x00004033#32, 0xFE00707F#32⟩,
  ⟨"SRL", 0x00005033#32, 0xFE00707F#32⟩,
  ⟨"SRA", 0x40005033#32, 0xFE00707F#32⟩,
  ⟨"OR", 0x00006033#32, 0xFE00707F#32⟩,
  ⟨"AND", 0x00007033#32, 0xFE00707F#32⟩]

/-- The opcode-table rows of R97. -/
def opImmRows : List OpcodeRow := [
  ⟨"ADDI", 0x00000013#32, 0x0000707F#32⟩,
  ⟨"SLTI", 0x00002013#32, 0x0000707F#32⟩,
  ⟨"SLTIU", 0x00003013#32, 0x0000707F#32⟩,
  ⟨"XORI", 0x00004013#32, 0x0000707F#32⟩,
  ⟨"ORI", 0x00006013#32, 0x0000707F#32⟩,
  ⟨"ANDI", 0x00007013#32, 0x0000707F#32⟩,
  ⟨"SLLI", 0x00001013#32, 0xFE00707F#32⟩,
  ⟨"SRLI", 0x00005013#32, 0xFE00707F#32⟩,
  ⟨"SRAI", 0x40005013#32, 0xFE00707F#32⟩]

/-- The opcode-table rows of R98. -/
def loadRows : List OpcodeRow := [
  ⟨"LB", 0x00000003#32, 0x0000707F#32⟩,
  ⟨"LH", 0x00001003#32, 0x0000707F#32⟩,
  ⟨"LW", 0x00002003#32, 0x0000707F#32⟩,
  ⟨"LBU", 0x00004003#32, 0x0000707F#32⟩,
  ⟨"LHU", 0x00005003#32, 0x0000707F#32⟩]

/-- The opcode-table rows of R99. -/
def storeRows : List OpcodeRow := [
  ⟨"SB", 0x00000023#32, 0x0000707F#32⟩,
  ⟨"SH", 0x00001023#32, 0x0000707F#32⟩,
  ⟨"SW", 0x00002023#32, 0x0000707F#32⟩]

/-- The opcode-table rows of R100. -/
def branchRows : List OpcodeRow := [
  ⟨"BEQ", 0x00000063#32, 0x0000707F#32⟩,
  ⟨"BNE", 0x00001063#32, 0x0000707F#32⟩,
  ⟨"BLT", 0x00004063#32, 0x0000707F#32⟩,
  ⟨"BGE", 0x00005063#32, 0x0000707F#32⟩,
  ⟨"BLTU", 0x00006063#32, 0x0000707F#32⟩,
  ⟨"BGEU", 0x00007063#32, 0x0000707F#32⟩]

/-- The opcode-table rows of R101. -/
def jumpUpperRows : List OpcodeRow := [
  ⟨"JAL", 0x0000006F#32, 0x0000007F#32⟩,
  ⟨"JALR", 0x00000067#32, 0x0000707F#32⟩,
  ⟨"LUI", 0x00000037#32, 0x0000007F#32⟩,
  ⟨"AUIPC", 0x00000017#32, 0x0000007F#32⟩]

/-- The opcode-table rows of R102. -/
def fenceRows : List OpcodeRow := [
  ⟨"FENCE", 0x0000000F#32, 0x0000707F#32⟩,
  ⟨"FENCE.I", 0x0000100F#32, 0x0000707F#32⟩]

/-- The opcode-table rows of R103. -/
def systemRows : List OpcodeRow := [
  ⟨"ECALL", 0x00000073#32, 0xFFF0707F#32⟩,
  ⟨"EBREAK", 0x00100073#32, 0xFFF0707F#32⟩,
  ⟨"CSRRW", 0x00001073#32, 0x0000707F#32⟩,
  ⟨"CSRRS", 0x00002073#32, 0x0000707F#32⟩,
  ⟨"CSRRC", 0x00003073#32, 0x0000707F#32⟩,
  ⟨"CSRRWI", 0x00005073#32, 0x0000707F#32⟩,
  ⟨"CSRRSI", 0x00006073#32, 0x0000707F#32⟩,
  ⟨"CSRRCI", 0x00007073#32, 0x0000707F#32⟩]

/-- spec/opcode_table.json: every row, in its order by family. -/
def opcodeTable : List OpcodeRow :=
  opRows ++ opImmRows ++ loadRows ++ storeRows ++ branchRows ++ jumpUpperRows ++ fenceRows ++ systemRows

/-- R104: the word belongs to the row. -/
abbrev OpcodeRow.Has (r : OpcodeRow) (w : Word) : Prop := w &&& r.mask = r.pattern

/-- The mnemonic of an instruction's row in spec/opcode_table.json. -/
def Instr.mnemonic : Instr → String
  | .add _ _ _ => "ADD"
  | .sub _ _ _ => "SUB"
  | .sll _ _ _ => "SLL"
  | .slt _ _ _ => "SLT"
  | .sltu _ _ _ => "SLTU"
  | .xor _ _ _ => "XOR"
  | .srl _ _ _ => "SRL"
  | .sra _ _ _ => "SRA"
  | .or _ _ _ => "OR"
  | .and _ _ _ => "AND"
  | .addi _ _ _ => "ADDI"
  | .slti _ _ _ => "SLTI"
  | .sltiu _ _ _ => "SLTIU"
  | .xori _ _ _ => "XORI"
  | .ori _ _ _ => "ORI"
  | .andi _ _ _ => "ANDI"
  | .slli _ _ _ => "SLLI"
  | .srli _ _ _ => "SRLI"
  | .srai _ _ _ => "SRAI"
  | .lb _ _ _ => "LB"
  | .lh _ _ _ => "LH"
  | .lw _ _ _ => "LW"
  | .lbu _ _ _ => "LBU"
  | .lhu _ _ _ => "LHU"
  | .sb _ _ _ => "SB"
  | .sh _ _ _ => "SH"
  | .sw _ _ _ => "SW"
  | .beq _ _ _ => "BEQ"
  | .bne _ _ _ => "BNE"
  | .blt _ _ _ => "BLT"
  | .bge _ _ _ => "BGE"
  | .bltu _ _ _ => "BLTU"
  | .bgeu _ _ _ => "BGEU"
  | .jal _ _ => "JAL"
  | .jalr _ _ _ => "JALR"
  | .lui _ _ => "LUI"
  | .auipc _ _ => "AUIPC"
  | .fence _ _ _ _ _ => "FENCE"
  | .fenceI _ _ _ => "FENCE.I"
  | .ecall _ _ => "ECALL"
  | .ebreak _ _ => "EBREAK"
  | .csrrw _ _ _ => "CSRRW"
  | .csrrs _ _ _ => "CSRRS"
  | .csrrc _ _ _ => "CSRRC"
  | .csrrwi _ _ _ => "CSRRWI"
  | .csrrsi _ _ _ => "CSRRSI"
  | .csrrci _ _ _ => "CSRRCI"

end Sys2Proof
end

