-- ==== Sys2Proof/Machine/State.lean ====
section
/-! DEFINITION. The state of the engine as plain data (10_state.md R20), the value a step returns (40_engine.md R128), the reasons a
step can stop, and the state after reset (R39, 70_reset_and_hazards.md R320). -/

namespace Sys2Proof.Machine

/-- Data memory as the list of its bytes that differ from what an unlisted address reads as, addresses strictly rising
(`Memory.wf` in Ops.lean). -/
abbrev Memory := List Host.Cell

/-- The error kinds, an enumeration with these four constructors and no numbers (60_exceptions.md R280, R286). -/
inductive ErrorKind where
  | decodeUnknownOpcode
  | outOfBoundsMemoryAccess
  | unimplementedEnvironmentCall
  | pcOutOfRange
  deriving DecidableEq, Repr

/-- The run status (R34). `index` is the word index R34 writes `at`. -/
inductive Status where
  | running
  /-- `none`: ran off the end. `some c`: an exit-class ECALL ended the run with the 32-bit exit code c. -/
  | halted (code : Option Word)
  | faulted (kind : ErrorKind) (index : Int)
  deriving DecidableEq, Repr

/-- A console event (R36, D18): the abstract value handed to the sink, not its text. -/
inductive Event where
  | printInt (v : Int)
  | printString (bytes : List Byte)
  | printChar (v : Word)
  deriving DecidableEq, Repr

/-- What a step returns (R128). `report` is a non-fatal kind, `fatal` a fatal one. -/
inductive StepResult where
  | ok
  | report (kind : ErrorKind) (index : Int)
  | fatal (kind : ErrorKind) (index : Int)
  | exited (code : Word)
  | ended
  | stopped
  deriving DecidableEq, Repr

/-- The state of R20 with the configuration it runs under and the result of its latest step. -/
structure State where
  /-- The configuration inputs (R6, R120 part 1); no step changes them. -/
  cfg : Config
  /-- x[0..31] (R21). The cell of x0 is the stored value of R22, which `State.readReg` never shows. -/
  regs : Vector Word 32
  /-- The program counter, a word index into PROG (R25); a signed integer (R28, D5). -/
  pcWord : Int
  /-- MEM (R32). -/
  mem : Memory
  /-- R34. -/
  status : Status
  /-- OUT, oldest event first (R36). -/
  out : List Event
  /-- The value the latest step returned (R120 part 4, R128); none before the first. An output that no rule reads
  (assumption 3). -/
  result : Option StepResult
  deriving DecidableEq, Repr

/-- Why a step answers no next state by a fault: never. Every fatal event of the spec (R284, R287) leaves a state it
describes, status Faulted, and is a next state (assumption 4). Safe. -/
inductive Fault where
  deriving DecidableEq, Repr

/-- Why a step is refused. -/
inductive Refusal where
  /-- Raised by an arm of `exec` for an instruction that has no meaning yet. No arm does. Safe. -/
  | notModelled (mnemonic : String)
  /-- Raised by `step` alone, when the configuration is outside the ranges of R6 (93_implementation_defined.md S10, S11:
  refuse). Safe. -/
  | configurationOutOfRange
  deriving DecidableEq, Repr

/-- R39, R320: reset under a configuration puts every piece of state at its reset value. -/
def State.resetWith (c : Config) : State where
  cfg := c
  regs := (Vector.replicate 32 0#32).set 2 c.spInit
  pcWord := 0
  mem := c.memInit
  status := .running
  out := []
  result := none

/-- The machine right after reset, under `Config.standard` (assumptions 1, 2). -/
def State.reset : State := State.resetWith Config.standard

end Sys2Proof.Machine
end

