-- ==== Sys2Proof/Machine/Ops.lean ====
section
/-! DEFINITION. The named operations over registers, memory, program counter, status and output (00_scope.md R11), and the
mechanisms of 60_exceptions.md: `report`, `raise`, `halt`. The engine has no trap entry and no return from one (R291, R292):
`State.raise` is the one way an instruction fails, and `State.resetAgain` the one way out of what it leaves. -/

namespace Sys2Proof.Machine

/-! ### Field updates -/

def State.setRegs (s : State) (r : Vector Word 32) : State := { s with regs := r }
def State.setPc (s : State) (p : Int) : State := { s with pcWord := p }
def State.setMem (s : State) (m : Memory) : State := { s with mem := m }
def State.setStatus (s : State) (st : Status) : State := { s with status := st }
def State.setOut (s : State) (o : List Event) : State := { s with out := o }
def State.setResult (s : State) (r : Option StepResult) : State := { s with result := r }

/-! ### Registers (10_state.md R22) -/

/-- `x[i]`: 0 when i = 0, whatever is stored. -/
def State.readReg (s : State) (r : Reg) : Word :=
  if r = 0#5 then 0#32 else s.regs[r.toNat]'(r.isLt)

/-- `x[i] <- v`: no effect when i = 0 (R22, D28, C3). -/
def State.writeReg (s : State) (r : Reg) (v : Word) : State :=
  if r = 0#5 then s else s.setRegs (s.regs.set r.toNat v r.isLt)

/-- The clamp `x[0] <- 0` of 40_engine.md R127: the stored value of x0 becomes 0. -/
def State.clampX0 (s : State) : State := s.setRegs (s.regs.set 0 0#32)

/-! ### Program counter (10_state.md R25 to R27) -/

/-- The byte address of word index k, `4 * k` modulo 2^32 (R25). -/
def byteAddress (k : Int) : Word := BitVec.ofInt 32 (4 * k)

/-- `pc`, the byte address of the current instruction. -/
def State.pc (s : State) : Word := byteAddress s.pcWord

/-- The link value `4 * (pc_word + 1)` modulo 2^32 (R25, R220). -/
def State.link (s : State) : Word := byteAddress (s.pcWord + 1)

/-- R27: signed division by 4, rounding toward zero (D7). -/
def sdiv4 (v : Word) : Int := v.toInt.tdiv 4

/-- `pc_word <- pc_word + 1` (R26 a). -/
def State.advance (s : State) : State := s.setPc (s.pcWord + 1)

/-- `pc_word <- t` (R26 b). -/
def State.jumpTo (s : State) (t : Int) : State := s.setPc t

/-! ### Data memory (10_state.md R32, 20_memory.md) -/

/-- What an address that is not listed reads as: memory is zero-filled where the loader put nothing (R39, R323, D4). -/
def Memory.unlisted : Byte := 0#8

/-- `MEM[a]`. -/
def Memory.read : Memory → Nat → Byte
  | [], _ => Memory.unlisted
  | (b, v) :: m, a => if b = a then v else Memory.read m a

/-- `MEM[a] <- v`, keeping the canonical form: writing what an unlisted address reads as removes the entry. -/
def Memory.write : Memory → Nat → Byte → Memory
  | [], a, v => if v = Memory.unlisted then [] else [(a, v)]
  | (b, u) :: m, a, v =>
    if a < b then (if v = Memory.unlisted then (b, u) :: m else (a, v) :: (b, u) :: m)
    else if a = b then (if v = Memory.unlisted then m else (a, v) :: m)
    else (b, u) :: Memory.write m a v

/-- Addresses strictly rising from `lo` on, no entry equal to what an unlisted address reads as. -/
def Memory.wfFrom : Nat → Memory → Bool
  | _, [] => true
  | lo, (b, v) :: m => decide (lo ≤ b) && decide (v ≠ Memory.unlisted) && Memory.wfFrom (b + 1) m

/-- The canonical form: equal memories are equal lists. -/
def Memory.wf (m : Memory) : Bool := Memory.wfFrom 0 m

/-- Every listed address is below `size`. -/
def Memory.below (size : Nat) (m : Memory) : Bool := m.all fun c => decide (c.1 < size)

/-- `n` bytes from address `a` on as one little-endian value, the byte at `a` least significant (R50, R51). -/
def Memory.readLE (m : Memory) (a : Nat) : Nat → Word
  | 0 => 0#32
  | n + 1 => (m.read a).setWidth 32 ||| (Memory.readLE m (a + 1) n <<< 8)

/-- The low `n` bytes of `v` from address `a` on, the least significant at `a` (R50, R52). -/
def Memory.writeLE (m : Memory) (a : Nat) : Nat → Word → Memory
  | 0, _ => m
  | n + 1, v => Memory.writeLE (m.write a (v.setWidth 8)) (a + 1) n (v >>> 8)

/-- The byte of data memory at address `a`, the host's read-out (R120 part 6). -/
def State.byteAt (s : State) (a : Nat) : Byte := s.mem.read a

/-- R53: an access of `n` bytes is in bounds; the sum does not wrap. -/
abbrev State.InBounds (s : State) (addr : Word) (n : Nat) : Prop := addr.toNat + n ≤ s.cfg.memSize

/-- `MemRead(addr, n)` (R51), the 8n-bit value in the low bits; none where the spec raises `OutOfBoundsMemoryAccess`. -/
def State.memRead (s : State) (addr : Word) (n : Nat) : Option Word :=
  if s.InBounds addr n then some (s.mem.readLE addr.toNat n) else none

/-- `MemWrite(addr, n, v)` (R52): all n bytes or, out of bounds, none of them (D24). -/
def State.memWrite (s : State) (addr : Word) (n : Nat) (v : Word) : Option State :=
  if s.InBounds addr n then some (s.setMem (s.mem.writeLE addr.toNat n v)) else none

/-! ### Output, reports, errors, the end of a run -/

/-- `emit e` (R36): append to OUT. -/
def State.emit (s : State) (e : Event) : State := s.setOut (s.out ++ [e])

/-- `report K` (60_exceptions.md R283): the result of the step becomes K(at), at the index the step began with. -/
def State.report (s : State) (k : ErrorKind) : State := s.setResult (some (.report k s.pcWord))

/-- `raise E` (R284): status Faulted(E, at) and result Fatal(E, at), at = pc_word; nothing else changes. -/
def State.raise (s : State) (k : ErrorKind) : State :=
  (s.setStatus (.faulted k s.pcWord)).setResult (some (.fatal k s.pcWord))

/-- `halt Some(c)` (R123 line 5): status Halted(Some(c)), result Exited(c). -/
def State.halt (s : State) (c : Word) : State := (s.setStatus (.halted (some c))).setResult (some (.exited c))

/-- A second reset (70_reset_and_hazards.md R320): the only way out of Halted and Faulted. -/
def State.resetAgain (s : State) : State := State.resetWith s.cfg

/-! ### The parts of a step (40_engine.md R123 to R130) -/

/-- The parameters are in the ranges of R6. -/
abbrev State.ConfigInRange (s : State) : Prop := s.cfg.InRange

/-- `PROG[pc_word]` (R125): none below index 0 and from PROG_LEN on. -/
def State.fetch (s : State) : Option Word := if s.pcWord < 0 then none else s.cfg.prog[s.pcWord.toNat]?

/-- R124: a step of a halted or faulted engine changes nothing and returns Stopped. -/
def State.stopped (s : State) : State := s.setResult (some .stopped)

/-- R123 line 1, R125: running off the end. -/
def State.runOffEnd (s : State) : State := (s.setStatus (.halted none)).setResult (some .ended)

/-- R123 lines 0 to 2: the word a step executes or, for a step that executes none, the state it leaves. A stopped engine stays
(R124), a negative pc_word fails (R287), one at or past PROG_LEN ends the run (R125). -/
def State.fetchOrEnd (s : State) : Except State Word :=
  match s.status with
  | .halted _ => .error s.stopped
  | .faulted _ _ => .error s.stopped
  | .running =>
    if s.pcWord < 0 then .error (s.raise .pcOutOfRange)
    else
      match s.fetch with
      | none => .error s.runOffEnd
      | some w => .ok w

/-- R123 line 3: the result is Ok before the handler runs. -/
def State.beginHandler (s : State) : State := s.setResult (some .ok)

/-- R130: a word that is no instruction is a reported no-op. -/
def execUnrecognised (s : State) : Host.Outcome State Fault Refusal :=
  .next (s.report .decodeUnknownOpcode).advance

/-- R123 lines 3 and 4: after a handler that raised, nothing more; after any other, the clamp of x0 (R127). -/
def State.endHandler (s : State) : State :=
  match s.status with
  | .faulted _ _ => s
  | .running => s.clampX0
  | .halted _ => s.clampX0

/-- `State.endHandler` on the outcome of a handler. -/
def afterHandler : Host.Outcome State Fault Refusal → Host.Outcome State Fault Refusal
  | .next s => .next s.endHandler
  | .fault r => .fault r
  | .refused r => .refused r

/-! ### Placing one instruction word (for `State.withFetchWord`) -/

/-- The program with word `w` at index `k`; words of zeros fill the gap of a shorter program. -/
def placeWord : List Word → Nat → Word → List Word
  | [], 0, w => [w]
  | _ :: ps, 0, w => w :: ps
  | [], k + 1, w => 0#32 :: placeWord [] k w
  | p :: ps, k + 1, w => p :: placeWord ps k w

/-- The index the next fetch can use: pc_word where PROG may hold a word (R6), else 0. -/
def State.fetchIndex (s : State) : Nat :=
  if 0 ≤ s.pcWord ∧ s.pcWord < 2 ^ 29 then s.pcWord.toNat else 0

end Sys2Proof.Machine
end

