-- ==== Sys2Proof/Machine/Boundary.lean ====
section
/-! DEFINITION. The contracts at the boundary that depend on the engine's state (00_scope.md R4): the program image the loader turns into PROG
(20_memory.md R66) and the register dump the host reads (40_engine.md R121). -/

namespace Sys2Proof.Machine

/-- R66: the words of a program image, big-endian on disk, in file order; none when its length is no multiple of 4, which has no
defined conversion (R325, D33). -/
def programOfImage : List Byte → Option (List Word)
  | [] => some []
  | b0 :: b1 :: b2 :: b3 :: rest => (programOfImage rest).map ((b0 ++ b1 ++ b2 ++ b3) :: ·)
  | [_] => none
  | [_, _] => none
  | [_, _, _] => none

/-- The four bytes of a word, most significant first (R121). -/
def bigEndianBytes (w : Word) : List Byte :=
  [w.extractLsb' 24 8, w.extractLsb' 16 8, w.extractLsb' 8 8, w.extractLsb' 0 8]

/-- R121: the register dump, x0 to x31 as 32-bit big-endian words, 128 bytes. -/
def State.registerDump (s : State) : List Byte :=
  (List.range 32).flatMap fun i => bigEndianBytes (s.readReg (BitVec.ofNat 5 i))


end Sys2Proof.Machine
end

