-- ==== Sys2Proof/Machine/Flags.lean ====
section
/-! DEFINITION. The engine has no flags (10_state.md R29): no instruction sets or reads one, and overflow is recorded nowhere. What
stands here is what it has instead, the comparisons that write 0 or 1 to a register or decide a branch
(00_scope.md R9, 41_r_type.md R161). -/

namespace Sys2Proof.Machine

/-- `<s`: the signed readings compare less. -/
def signedLess (a b : Word) : Bool := a.slt b

/-- `<u`: the unsigned readings compare less. -/
def unsignedLess (a b : Word) : Bool := a.ult b

/-- `bool(c)`: the 32-bit value 1 when c holds, else 0 (R9). -/
def boolWord (c : Bool) : Word := if c then 1#32 else 0#32

end Sys2Proof.Machine
end

