-- ==== Sys2Proof/Machine/Operands.lean ====
section
/-! DEFINITION. The operand forms: register, immediate, shift count, and the one addressing mode, base register plus signed
12-bit displacement (41_r_type.md R150, 42_i_arith.md R170, 43_load.md R190, 44_store.md R200). -/

namespace Sys2Proof.Machine

/-- The effective address of a load or a store, and the sum of JALR: `x[rs1] + sext_12(imm)` modulo 2^32 (R190, R200, R222). -/
def State.effectiveAddress (s : State) (rs1 : Reg) (imm : BitVec 12) : Word := s.readReg rs1 + sext12 imm

/-- R153: the shift count of a register shift, the low 5 bits of the second operand. -/
def shiftCount (v : Word) : Nat := (v.extractLsb' 0 5).toNat

/-- The target of JALR (R222): the sum with bit 0 cleared, read as signed, divided by 4. -/
def State.jalrTarget (s : State) (rs1 : Reg) (imm : BitVec 12) : Int :=
  sdiv4 (s.effectiveAddress rs1 imm &&& 0xFFFFFFFE#32)

/-- R150, R170: `x[rd] <- v`, then `pc_word <- pc_word + 1`. The caller has read every source (R133). -/
def State.writeResult (s : State) (rd : Reg) (v : Word) : State := (s.writeReg rd v).advance

/-- sext_8 of the low byte, sext_16 of the low halfword (R10, R56). -/
def sextByte (v : Word) : Word := (v.setWidth 8).signExtend 32
def sextHalf (v : Word) : Word := (v.setWidth 16).signExtend 32

/-- zext_8 and zext_16 (R10, R56). -/
def zextByte (v : Word) : Word := (v.setWidth 8).setWidth 32
def zextHalf (v : Word) : Word := (v.setWidth 16).setWidth 32

/-- R190: a load of `n` bytes, widened by `ext`, into rd; out of bounds it raises and writes nothing. -/
def State.loadInto (s : State) (rd rs1 : Reg) (imm : BitVec 12) (n : Nat) (ext : Word → Word) : State :=
  match s.memRead (s.effectiveAddress rs1 imm) n with
  | none => s.raise .outOfBoundsMemoryAccess
  | some v => s.writeResult rd (ext v)

/-- R200: a store of the low `n` bytes of x[rs2]; out of bounds it raises and writes no byte. -/
def State.storeFrom (s : State) (rs2 rs1 : Reg) (imm : BitVec 12) (n : Nat) : State :=
  match s.memWrite (s.effectiveAddress rs1 imm) n (s.readReg rs2) with
  | none => s.raise .outOfBoundsMemoryAccess
  | some t => t.advance

/-- R210: a branch, taken when the condition holds. -/
def State.branchOn (s : State) (taken : Bool) (offset : BitVec 13) : State :=
  if taken then s.jumpTo (s.pcWord + sdiv4 (sext13 offset)) else s.advance

end Sys2Proof.Machine
end

