-- ==== Sys2Proof/Machine/ArithImm.lean ====
section
/-! DEFINITION. The register-immediate instructions (42_i_arith.md R170 to R179): the R-type functions with sext_12 of the immediate, or a 5-bit count. -/

namespace Sys2Proof.Machine

/-- R171: ADDI. -/
def execAddi (rd rs1 : Reg) (imm : BitVec 12) (s : State) : Host.Outcome State Fault Refusal :=
  .next (s.writeResult rd (s.readReg rs1 + sext12 imm))

/-- R172: SLTI. -/
def execSlti (rd rs1 : Reg) (imm : BitVec 12) (s : State) : Host.Outcome State Fault Refusal :=
  .next (s.writeResult rd (boolWord (signedLess (s.readReg rs1) (sext12 imm))))

/-- R173: SLTIU, the immediate sign-extended first, then compared unsigned. -/
def execSltiu (rd rs1 : Reg) (imm : BitVec 12) (s : State) : Host.Outcome State Fault Refusal :=
  .next (s.writeResult rd (boolWord (unsignedLess (s.readReg rs1) (sext12 imm))))

/-- R174: XORI. -/
def execXori (rd rs1 : Reg) (imm : BitVec 12) (s : State) : Host.Outcome State Fault Refusal :=
  .next (s.writeResult rd (s.readReg rs1 ^^^ sext12 imm))

/-- R175: ORI. -/
def execOri (rd rs1 : Reg) (imm : BitVec 12) (s : State) : Host.Outcome State Fault Refusal :=
  .next (s.writeResult rd (s.readReg rs1 ||| sext12 imm))

/-- R176: ANDI. -/
def execAndi (rd rs1 : Reg) (imm : BitVec 12) (s : State) : Host.Outcome State Fault Refusal :=
  .next (s.writeResult rd (s.readReg rs1 &&& sext12 imm))

/-- R177: SLLI. -/
def execSlli (rd rs1 : Reg) (shamt : BitVec 5) (s : State) : Host.Outcome State Fault Refusal :=
  .next (s.writeResult rd (s.readReg rs1 <<< shamt.toNat))

/-- R178: SRLI. -/
def execSrli (rd rs1 : Reg) (shamt : BitVec 5) (s : State) : Host.Outcome State Fault Refusal :=
  .next (s.writeResult rd (s.readReg rs1 >>> shamt.toNat))

/-- R179: SRAI. -/
def execSrai (rd rs1 : Reg) (shamt : BitVec 5) (s : State) : Host.Outcome State Fault Refusal :=
  .next (s.writeResult rd ((s.readReg rs1).sshiftRight shamt.toNat))


end Sys2Proof.Machine
end

