-- ==== Sys2Proof/Machine/ArithReg.lean ====
section
/-! DEFINITION. The register-register instructions (41_r_type.md R150 to R161): both sources read, one result written, pc_word + 1. -/

namespace Sys2Proof.Machine

/-- R151: ADD, modulo 2^32. -/
def execAdd (rd rs1 rs2 : Reg) (s : State) : Host.Outcome State Fault Refusal :=
  .next (s.writeResult rd (s.readReg rs1 + s.readReg rs2))

/-- R152: SUB, rs1 minus rs2 modulo 2^32. -/
def execSub (rd rs1 rs2 : Reg) (s : State) : Host.Outcome State Fault Refusal :=
  .next (s.writeResult rd (s.readReg rs1 - s.readReg rs2))

/-- R153: SLL, zeros enter at bit 0. -/
def execSll (rd rs1 rs2 : Reg) (s : State) : Host.Outcome State Fault Refusal :=
  .next (s.writeResult rd (s.readReg rs1 <<< shiftCount (s.readReg rs2)))

/-- R154: SLT, 1 when x[rs1] <s x[rs2]. -/
def execSlt (rd rs1 rs2 : Reg) (s : State) : Host.Outcome State Fault Refusal :=
  .next (s.writeResult rd (boolWord (signedLess (s.readReg rs1) (s.readReg rs2))))

/-- R155: SLTU, 1 when x[rs1] <u x[rs2]. -/
def execSltu (rd rs1 rs2 : Reg) (s : State) : Host.Outcome State Fault Refusal :=
  .next (s.writeResult rd (boolWord (unsignedLess (s.readReg rs1) (s.readReg rs2))))

/-- R156: XOR. -/
def execXor (rd rs1 rs2 : Reg) (s : State) : Host.Outcome State Fault Refusal :=
  .next (s.writeResult rd (s.readReg rs1 ^^^ s.readReg rs2))

/-- R157: SRL, zeros enter at bit 31. -/
def execSrl (rd rs1 rs2 : Reg) (s : State) : Host.Outcome State Fault Refusal :=
  .next (s.writeResult rd (s.readReg rs1 >>> shiftCount (s.readReg rs2)))

/-- R158: SRA, copies of bit 31 enter at bit 31. -/
def execSra (rd rs1 rs2 : Reg) (s : State) : Host.Outcome State Fault Refusal :=
  .next (s.writeResult rd ((s.readReg rs1).sshiftRight (shiftCount (s.readReg rs2))))

/-- R159: OR. -/
def execOr (rd rs1 rs2 : Reg) (s : State) : Host.Outcome State Fault Refusal :=
  .next (s.writeResult rd (s.readReg rs1 ||| s.readReg rs2))

/-- R160: AND. -/
def execAnd (rd rs1 rs2 : Reg) (s : State) : Host.Outcome State Fault Refusal :=
  .next (s.writeResult rd (s.readReg rs1 &&& s.readReg rs2))


end Sys2Proof.Machine
end

