-- ==== Sys2Proof/Machine/Branch.lean ====
section
/-! DEFINITION. The conditional branches (45_branch.md R210 to R218). -/

namespace Sys2Proof.Machine

/-- R211: BEQ. -/
def execBeq (rs1 rs2 : Reg) (offset : BitVec 13) (s : State) : Host.Outcome State Fault Refusal :=
  .next (s.branchOn (decide (s.readReg rs1 = s.readReg rs2)) offset)

/-- R212: BNE. -/
def execBne (rs1 rs2 : Reg) (offset : BitVec 13) (s : State) : Host.Outcome State Fault Refusal :=
  .next (s.branchOn (decide (s.readReg rs1 ≠ s.readReg rs2)) offset)

/-- R213: BLT. -/
def execBlt (rs1 rs2 : Reg) (offset : BitVec 13) (s : State) : Host.Outcome State Fault Refusal :=
  .next (s.branchOn (signedLess (s.readReg rs1) (s.readReg rs2)) offset)

/-- R214: BGE. -/
def execBge (rs1 rs2 : Reg) (offset : BitVec 13) (s : State) : Host.Outcome State Fault Refusal :=
  .next (s.branchOn (!signedLess (s.readReg rs1) (s.readReg rs2)) offset)

/-- R215: BLTU. -/
def execBltu (rs1 rs2 : Reg) (offset : BitVec 13) (s : State) : Host.Outcome State Fault Refusal :=
  .next (s.branchOn (unsignedLess (s.readReg rs1) (s.readReg rs2)) offset)

/-- R216: BGEU. -/
def execBgeu (rs1 rs2 : Reg) (offset : BitVec 13) (s : State) : Host.Outcome State Fault Refusal :=
  .next (s.branchOn (!unsignedLess (s.readReg rs1) (s.readReg rs2)) offset)


end Sys2Proof.Machine
end

