-- ==== Sys2Proof/Machine/Fence.lean ====
section
/-! DEFINITION. The fences (48_fence.md R240 to R242): no-ops that ignore every field. -/

namespace Sys2Proof.Machine

/-- R240: FENCE orders nothing, since nothing is out of order (20_memory.md R61, R62). -/
def execFence (_fm _pred _succ : BitVec 4) (_rs1 _rd : Reg) (s : State) : Host.Outcome State Fault Refusal :=
  .next s.advance

/-- R241: FENCE.I synchronises nothing, since no store reaches PROG (20_memory.md R63). -/
def execFenceI (_imm : BitVec 12) (_rs1 _rd : Reg) (s : State) : Host.Outcome State Fault Refusal :=
  .next s.advance


end Sys2Proof.Machine
end

