-- ==== Sys2Proof/Machine/Jump.lean ====
section
/-! DEFINITION. The jumps (46_jal_jalr.md R220 to R224): neither checks its target. -/

namespace Sys2Proof.Machine

/-- R221: JAL, the link to rd and a jump relative to this instruction. -/
def execJal (rd : Reg) (offset : BitVec 21) (s : State) : Host.Outcome State Fault Refusal :=
  .next ((s.writeReg rd s.link).jumpTo (s.pcWord + sdiv4 (sext21 offset)))

/-- R222: JALR, the link to rd and a jump to an absolute address; the target uses x[rs1] from before the link is written
(R133, D9, C8). -/
def execJalr (rd rs1 : Reg) (imm : BitVec 12) (s : State) : Host.Outcome State Fault Refusal :=
  .next ((s.writeReg rd s.link).jumpTo (s.jalrTarget rs1 imm))


end Sys2Proof.Machine
end

