-- ==== Sys2Proof/Machine/Load.lean ====
section
/-! DEFINITION. The loads (43_load.md R190 to R196): n bytes at x[rs1] + sext_12(imm), widened into rd. -/

namespace Sys2Proof.Machine

/-- R191: LB. -/
def execLb (rd rs1 : Reg) (imm : BitVec 12) (s : State) : Host.Outcome State Fault Refusal :=
  .next (s.loadInto rd rs1 imm 1 sextByte)

/-- R192: LH. -/
def execLh (rd rs1 : Reg) (imm : BitVec 12) (s : State) : Host.Outcome State Fault Refusal :=
  .next (s.loadInto rd rs1 imm 2 sextHalf)

/-- R193: LW. -/
def execLw (rd rs1 : Reg) (imm : BitVec 12) (s : State) : Host.Outcome State Fault Refusal :=
  .next (s.loadInto rd rs1 imm 4 id)

/-- R194: LBU. -/
def execLbu (rd rs1 : Reg) (imm : BitVec 12) (s : State) : Host.Outcome State Fault Refusal :=
  .next (s.loadInto rd rs1 imm 1 zextByte)

/-- R195: LHU. -/
def execLhu (rd rs1 : Reg) (imm : BitVec 12) (s : State) : Host.Outcome State Fault Refusal :=
  .next (s.loadInto rd rs1 imm 2 zextHalf)


end Sys2Proof.Machine
end

