-- ==== Sys2Proof/Machine/Store.lean ====
section
/-! DEFINITION. The stores (44_store.md R200 to R204): the low n bytes of x[rs2] at x[rs1] + sext_12(imm). -/

namespace Sys2Proof.Machine

/-- R201: SB. -/
def execSb (rs2 rs1 : Reg) (imm : BitVec 12) (s : State) : Host.Outcome State Fault Refusal :=
  .next (s.storeFrom rs2 rs1 imm 1)

/-- R202: SH. -/
def execSh (rs2 rs1 : Reg) (imm : BitVec 12) (s : State) : Host.Outcome State Fault Refusal :=
  .next (s.storeFrom rs2 rs1 imm 2)

/-- R203: SW. -/
def execSw (rs2 rs1 : Reg) (imm : BitVec 12) (s : State) : Host.Outcome State Fault Refusal :=
  .next (s.storeFrom rs2 rs1 imm 4)


end Sys2Proof.Machine
end

