-- ==== Sys2Proof/Machine/System.lean ====
section
/-! DEFINITION. The system instructions (49_system.md R250 to R267): the environment call and seven no-ops. -/

namespace Sys2Proof.Machine

/-- R253 `ReadString`: the bytes from address `p` on, up to the first zero byte, which is left out; none when a read goes out
of bounds first. `fuel` bounds the number of bytes read. -/
def State.readString (s : State) : Nat → Word → Option (List Byte)
  | 0, _ => none
  | fuel + 1, p =>
    match s.memRead p 1 with
    | none => none
    | some v =>
      if v.setWidth 8 = 0#8 then some []
      else (s.readString fuel (p + 1#32)).map (v.setWidth 8 :: ·)

/-- R253: the whole string at `p`. MEM has MEM_SIZE bytes, so MEM_SIZE + 1 reads meet a zero byte or leave the memory. -/
def State.stringAt (s : State) (p : Word) : Option (List Byte) := s.readString (s.cfg.memSize + 1) p

/-- R252, service 1: print x11 as a signed integer. -/
def State.servicePrintInt (s : State) : State := (s.emit (.printInt (s.readReg 11#5).toInt)).advance

/-- R253, service 4: print the string x11 points to; out of bounds it raises and emits nothing (D19). -/
def State.servicePrintString (s : State) : State :=
  match s.stringAt (s.readReg 11#5) with
  | none => s.raise .outOfBoundsMemoryAccess
  | some bytes => (s.emit (.printString bytes)).advance

/-- R254, service 9: reserved, nothing. -/
def State.serviceReserved (s : State) : State := s.advance

/-- R255, service 10: exit with code 0 (D16, C11); pc_word advances too (D17). -/
def State.serviceExit (s : State) : State := (s.halt 0#32).advance

/-- R256, service 11: print character, all 32 bits of x11 (D18). -/
def State.servicePrintChar (s : State) : State := (s.emit (.printChar (s.readReg 11#5))).advance

/-- R257, service 17: exit with x11 as the code. -/
def State.serviceExitCode (s : State) : State := (s.halt (s.readReg 11#5)).advance

/-- R258: any other code is reported and ignored. -/
def State.serviceUnknown (s : State) : State := (s.report .unimplementedEnvironmentCall).advance

/-- R251: dispatch on all 32 bits of x10, read as signed (D31). -/
def State.environmentCall (s : State) : State :=
  let code := (s.readReg 10#5).toInt
  if code = 1 then s.servicePrintInt
  else if code = 4 then s.servicePrintString
  else if code = 9 then s.serviceReserved
  else if code = 10 then s.serviceExit
  else if code = 11 then s.servicePrintChar
  else if code = 17 then s.serviceExitCode
  else s.serviceUnknown

/-- R251: ECALL. -/
def execEcall (_rs1 _rd : Reg) (s : State) : Host.Outcome State Fault Refusal :=
  .next s.environmentCall

/-- R260: EBREAK is a no-op; it neither stops the run nor reports. -/
def execEbreak (_rs1 _rd : Reg) (s : State) : Host.Outcome State Fault Refusal :=
  .next s.advance

/-- R261: CSRRW is a no-op; rd is not written and no CSR exists (R259). -/
def execCsrrw (_rd : Reg) (_csr : BitVec 12) (_rs1 : Reg) (s : State) : Host.Outcome State Fault Refusal :=
  .next s.advance

/-- R262: CSRRS is a no-op; rd is not written and no CSR exists (R259). -/
def execCsrrs (_rd : Reg) (_csr : BitVec 12) (_rs1 : Reg) (s : State) : Host.Outcome State Fault Refusal :=
  .next s.advance

/-- R263: CSRRC is a no-op; rd is not written and no CSR exists (R259). -/
def execCsrrc (_rd : Reg) (_csr : BitVec 12) (_rs1 : Reg) (s : State) : Host.Outcome State Fault Refusal :=
  .next s.advance

/-- R264: CSRRWI is a no-op; rd is not written and no CSR exists (R259). -/
def execCsrrwi (_rd : Reg) (_csr : BitVec 12) (_uimm : BitVec 5) (s : State) : Host.Outcome State Fault Refusal :=
  .next s.advance

/-- R265: CSRRSI is a no-op; rd is not written and no CSR exists (R259). -/
def execCsrrsi (_rd : Reg) (_csr : BitVec 12) (_uimm : BitVec 5) (s : State) : Host.Outcome State Fault Refusal :=
  .next s.advance

/-- R266: CSRRCI is a no-op; rd is not written and no CSR exists (R259). -/
def execCsrrci (_rd : Reg) (_csr : BitVec 12) (_uimm : BitVec 5) (s : State) : Host.Outcome State Fault Refusal :=
  .next s.advance


end Sys2Proof.Machine
end

