-- ==== Sys2Proof/Machine/Upper.lean ====
section
/-! DEFINITION. The upper-immediate instructions (47_lui_auipc.md R230, R231). -/

namespace Sys2Proof.Machine

/-- R230: LUI. -/
def execLui (rd : Reg) (imm20 : BitVec 20) (s : State) : Host.Outcome State Fault Refusal :=
  .next (s.writeResult rd (upperImm imm20))

/-- R231: AUIPC, the byte address of this instruction plus imm_U. -/
def execAuipc (rd : Reg) (imm20 : BitVec 20) (s : State) : Host.Outcome State Fault Refusal :=
  .next (s.writeResult rd (s.pc + upperImm imm20))


end Sys2Proof.Machine
end

