-- ==== Sys2Proof/Machine/Step.lean ====
section
/-! DEFINITION. The one transition of the engine (40_engine.md R123), over the parts Ops.lean defines. -/

namespace Sys2Proof.Machine

/-- The handler R126 selects for a fetched word: an instruction's meaning, or the reported no-op of R130. -/
def execWord (w : Word) (s : State) : Host.Outcome State Fault Refusal :=
  match decode w with
  | .ok i => exec i s
  | .error _ => execUnrecognised s

/-- R123. A configuration outside R6 is refused (S10, S11). Lines 0 to 2: the step ends without an instruction or fetches a word;
lines 3 to 5: the handler runs with result Ok, then the clamp. -/
def step (s : State) : Host.Outcome State Fault Refusal :=
  if s.ConfigInRange then
    match s.fetchOrEnd with
    | .error t => .next t
    | .ok w => afterHandler (execWord w s.beginHandler)
  else .refused .configurationOutOfRange

/-- The state whose next step runs the word `w` of `nbits` bits: the program holds it at the index the step fetches from, and the
engine is Running there (assumption 2). A pc_word no program can reach is moved to 0. -/
def State.withFetchWord (s : State) (nbits w : Nat) : State :=
  { s with
    cfg := { s.cfg with prog := placeWord s.cfg.prog s.fetchIndex (BitVec.ofNat 32 (w % 2 ^ nbits)) }
    pcWord := s.fetchIndex
    status := .running }

end Sys2Proof.Machine
end

