-- ==== Sys2Proof/Safety.lean ====
section
/-! DEFINITION. The terms claims are made in: the invariant of the machine (10_state.md R40 and what the rules add to it), which
registers an instruction names (R24), and what it means that a step or an instruction changes only some of the state. -/

namespace Sys2Proof

/-- A configuration of R6: in range, and MEM_INIT is MEM_SIZE bytes, the listed ones canonical and inside the memory. -/
structure Config.WellFormed (c : Config) : Prop where
  inRange : c.InRange
  initCanonical : Machine.Memory.wf c.memInit = true
  initInside : Machine.Memory.below c.memSize c.memInit = true

end Sys2Proof

namespace Sys2Proof.Machine

/-! ### The invariant -/

/-- What each terminal status says of pc_word (70_reset_and_hazards.md R335, 60_exceptions.md R282, R287, R288). The spec's
decisions in it: D17 for an exit (assumption 10), D20 for the index of a fault (assumption 17), D6 for PcOutOfRange (assumption 9). -/
def State.StatusAgrees (s : State) : Prop :=
  match s.status with
  | .running => True
  | .halted none => (s.cfg.prog.length : Int) ≤ s.pcWord
  | .halted (some _) => 1 ≤ s.pcWord ∧ s.pcWord ≤ s.cfg.prog.length
  | .faulted .outOfBoundsMemoryAccess k => k = s.pcWord ∧ 0 ≤ k ∧ k < s.cfg.prog.length
  | .faulted .pcOutOfRange k => k = s.pcWord ∧ k < 0
  | .faulted .decodeUnknownOpcode _ => False
  | .faulted .unimplementedEnvironmentCall _ => False

/-- The table of 40_engine.md R128: the status after each result; Stopped is the spec's decision D21 (assumption 15). -/
def State.ResultAgrees (s : State) : Prop :=
  match s.result with
  | none => s.status = .running
  | some .ok => s.status = .running
  | some (.report _ _) => s.status = .running
  | some (.fatal k i) => s.status = .faulted k i
  | some (.exited c) => s.status = .halted (some c)
  | some .ended => s.status = .halted none
  | some .stopped => s.status ≠ .running

/-- What holds between steps (R40) and the bounds R28 gives pc_word. -/
structure State.Inv (s : State) : Prop where
  config : s.cfg.WellFormed
  x0Clear : s.regs[0] = 0#32
  memCanonical : s.mem.wf = true
  memInside : s.mem.below s.cfg.memSize = true
  pcLow : -(2 : Int) ^ 29 ≤ s.pcWord
  pcHigh : s.pcWord < (2 : Int) ^ 29 + 2 ^ 18
  statusAgrees : s.StatusAgrees
  resultAgrees : s.ResultAgrees

/-- A run that has not failed: Running or Halted (R335, R336). -/
def State.Safe (s : State) : Prop :=
  match s.status with
  | .running => True
  | .halted _ => True
  | .faulted _ _ => False

end Sys2Proof.Machine

namespace Sys2Proof

/-! ### What an instruction names (R24, R26) -/

/-- The register an instruction writes (R24). -/
def Instr.destination : Instr → Option Reg
  | .add rd _ _ | .sub rd _ _ | .sll rd _ _ | .slt rd _ _ | .sltu rd _ _ => some rd
  | .xor rd _ _ | .srl rd _ _ | .sra rd _ _ | .or rd _ _ | .and rd _ _ => some rd
  | .addi rd _ _ | .slti rd _ _ | .sltiu rd _ _ | .xori rd _ _ | .ori rd _ _ | .andi rd _ _ => some rd
  | .slli rd _ _ | .srli rd _ _ | .srai rd _ _ => some rd
  | .lb rd _ _ | .lh rd _ _ | .lw rd _ _ | .lbu rd _ _ | .lhu rd _ _ => some rd
  | .jal rd _ | .jalr rd _ _ | .lui rd _ | .auipc rd _ => some rd
  | .sb _ _ _ | .sh _ _ _ | .sw _ _ _ => none
  | .beq _ _ _ | .bne _ _ _ | .blt _ _ _ | .bge _ _ _ | .bltu _ _ _ | .bgeu _ _ _ => none
  | .fence _ _ _ _ _ | .fenceI _ _ _ | .ecall _ _ | .ebreak _ _ => none
  | .csrrw _ _ _ | .csrrs _ _ _ | .csrrc _ _ _ | .csrrwi _ _ _ | .csrrsi _ _ _ | .csrrci _ _ _ => none

/-- The registers an instruction reads (R24); `x10` is the value ECALL finds in x10, which decides whether it reads x11. -/
def Instr.sources (x10 : Word) : Instr → List Reg
  | .add _ rs1 rs2 | .sub _ rs1 rs2 | .sll _ rs1 rs2 | .slt _ rs1 rs2 | .sltu _ rs1 rs2 => [rs1, rs2]
  | .xor _ rs1 rs2 | .srl _ rs1 rs2 | .sra _ rs1 rs2 | .or _ rs1 rs2 | .and _ rs1 rs2 => [rs1, rs2]
  | .addi _ rs1 _ | .slti _ rs1 _ | .sltiu _ rs1 _ | .xori _ rs1 _ | .ori _ rs1 _ | .andi _ rs1 _ => [rs1]
  | .slli _ rs1 _ | .srli _ rs1 _ | .srai _ rs1 _ => [rs1]
  | .lb _ rs1 _ | .lh _ rs1 _ | .lw _ rs1 _ | .lbu _ rs1 _ | .lhu _ rs1 _ => [rs1]
  | .sb rs2 rs1 _ | .sh rs2 rs1 _ | .sw rs2 rs1 _ => [rs1, rs2]
  | .beq rs1 rs2 _ | .bne rs1 rs2 _ | .blt rs1 rs2 _ | .bge rs1 rs2 _ | .bltu rs1 rs2 _ | .bgeu rs1 rs2 _ => [rs1, rs2]
  | .jalr _ rs1 _ => [rs1]
  | .jal _ _ | .lui _ _ | .auipc _ _ => []
  | .ecall _ _ => if x10 = 1#32 ∨ x10 = 4#32 ∨ x10 = 11#32 ∨ x10 = 17#32 then [10#5, 11#5] else [10#5]
  | .fence _ _ _ _ _ | .fenceI _ _ _ | .ebreak _ _ => []
  | .csrrw _ _ _ | .csrrs _ _ _ | .csrrc _ _ _ | .csrrwi _ _ _ | .csrrsi _ _ _ | .csrrci _ _ _ => []

/-- The stores, the only instructions that change MEM (R20, R200): how many bytes each writes. -/
def Instr.storeWidth : Instr → Nat
  | .sb _ _ _ => 1
  | .sh _ _ _ => 2
  | .sw _ _ _ => 4
  | .add _ _ _ | .sub _ _ _ | .sll _ _ _ | .slt _ _ _ | .sltu _ _ _ => 0
  | .xor _ _ _ | .srl _ _ _ | .sra _ _ _ | .or _ _ _ | .and _ _ _ => 0
  | .addi _ _ _ | .slti _ _ _ | .sltiu _ _ _ | .xori _ _ _ | .ori _ _ _ | .andi _ _ _ => 0
  | .slli _ _ _ | .srli _ _ _ | .srai _ _ _ => 0
  | .lb _ _ _ | .lh _ _ _ | .lw _ _ _ | .lbu _ _ _ | .lhu _ _ _ => 0
  | .beq _ _ _ | .bne _ _ _ | .blt _ _ _ | .bge _ _ _ | .bltu _ _ _ | .bgeu _ _ _ => 0
  | .jal _ _ | .jalr _ _ _ | .lui _ _ | .auipc _ _ => 0
  | .fence _ _ _ _ _ | .fenceI _ _ _ | .ecall _ _ | .ebreak _ _ => 0
  | .csrrw _ _ _ | .csrrs _ _ _ | .csrrc _ _ _ | .csrrwi _ _ _ | .csrrsi _ _ _ | .csrrci _ _ _ => 0

/-- The instructions that may set pc_word other than to pc_word + 1 (R26 b). -/
def Instr.controlTransfer : Instr → Bool
  | .beq _ _ _ | .bne _ _ _ | .blt _ _ _ | .bge _ _ _ | .bltu _ _ _ | .bgeu _ _ _ => true
  | .jal _ _ | .jalr _ _ _ => true
  | .add _ _ _ | .sub _ _ _ | .sll _ _ _ | .slt _ _ _ | .sltu _ _ _ => false
  | .xor _ _ _ | .srl _ _ _ | .sra _ _ _ | .or _ _ _ | .and _ _ _ => false
  | .addi _ _ _ | .slti _ _ _ | .sltiu _ _ _ | .xori _ _ _ | .ori _ _ _ | .andi _ _ _ => false
  | .slli _ _ _ | .srli _ _ _ | .srai _ _ _ => false
  | .lb _ _ _ | .lh _ _ _ | .lw _ _ _ | .lbu _ _ _ | .lhu _ _ _ => false
  | .sb _ _ _ | .sh _ _ _ | .sw _ _ _ | .lui _ _ | .auipc _ _ => false
  | .fence _ _ _ _ _ | .fenceI _ _ _ | .ecall _ _ | .ebreak _ _ => false
  | .csrrw _ _ _ | .csrrs _ _ _ | .csrrc _ _ _ | .csrrwi _ _ _ | .csrrsi _ _ _ | .csrrci _ _ _ => false

end Sys2Proof

namespace Sys2Proof.Machine

/-! ### What an instruction changes -/

/-- Every byte of memory reads as before. -/
def SameMemory (s t : State) : Prop := ∀ a : Nat, t.byteAt a = s.byteAt a

/-- Every register reads as before. -/
def SameRegisters (s t : State) : Prop := ∀ r : Reg, t.readReg r = s.readReg r

/-- Configuration, status, output and step result are as before: nothing raised, halted, emitted or reported. -/
def SameControl (s t : State) : Prop := t.cfg = s.cfg ∧ t.status = s.status ∧ t.out = s.out ∧ t.result = s.result

/-- From `s` to `t` register rd receives `v` (x0 keeps reading 0), pc_word becomes `pc`, and nothing else changes. -/
def WritesOnly (s t : State) (rd : Reg) (v : Word) (pc : Int) : Prop :=
  t.readReg rd = (if rd = 0#5 then 0#32 else v) ∧ (∀ r : Reg, r ≠ rd → t.readReg r = s.readReg r) ∧ t.pcWord = pc ∧
    SameMemory s t ∧ SameControl s t

/-- From `s` to `t` pc_word becomes `pc` and nothing else changes. -/
def MovesOnly (s t : State) (pc : Int) : Prop :=
  SameRegisters s t ∧ t.pcWord = pc ∧ SameMemory s t ∧ SameControl s t

/-- From `s` to `t` the `n` bytes from address `a` on become the low bytes of `v`, least significant first, pc_word advances by
one, and nothing else changes. -/
def StoresOnly (s t : State) (a n : Nat) (v : Word) : Prop :=
  (∀ i : Nat, i < n → t.byteAt (a + i) = v.extractLsb' (8 * i) 8) ∧
    (∀ b : Nat, b < a ∨ a + n ≤ b → t.byteAt b = s.byteAt b) ∧
    SameRegisters s t ∧ t.pcWord = s.pcWord + 1 ∧ SameControl s t

/-- `raise E` (60_exceptions.md R284): status Faulted(E, pc_word), result Fatal(E, pc_word), everything else as before. -/
def FailsWith (s t : State) (kind : ErrorKind) : Prop :=
  t.status = .faulted kind s.pcWord ∧ t.result = some (.fatal kind s.pcWord) ∧
    SameRegisters s t ∧ SameMemory s t ∧ t.pcWord = s.pcWord ∧ t.out = s.out ∧ t.cfg = s.cfg

/-- From `s` to `t` pc_word advances by one and OUT gains the one event `e`; nothing else changes. -/
def EmitsOnly (s t : State) (e : Event) : Prop :=
  t.out = s.out ++ [e] ∧ t.pcWord = s.pcWord + 1 ∧ SameRegisters s t ∧ SameMemory s t ∧
    t.cfg = s.cfg ∧ t.status = s.status ∧ t.result = s.result

/-- `report K` (R283) of a word that is otherwise a no-op: the result is K(at), at = pc_word before; pc_word advances by one; nothing
else changes. -/
def ReportsOnly (s t : State) (kind : ErrorKind) : Prop :=
  t.result = some (.report kind s.pcWord) ∧ t.pcWord = s.pcWord + 1 ∧ SameRegisters s t ∧ SameMemory s t ∧
    t.cfg = s.cfg ∧ t.status = s.status ∧ t.out = s.out

/-- An exit-class ECALL (R255, R257): status Halted(Some(c)), result Exited(c), pc_word advances by one; nothing else changes. -/
def ExitsOnly (s t : State) (c : Word) : Prop :=
  t.status = .halted (some c) ∧ t.result = some (.exited c) ∧ t.pcWord = s.pcWord + 1 ∧ SameRegisters s t ∧
    SameMemory s t ∧ t.cfg = s.cfg ∧ t.out = s.out

/-- The next step of `s` fetches the word `w` and executes it: the configuration is in range, the engine Running, pc_word in the
program (R123 lines 0 to 2). -/
def State.Fetches (s : State) (w : Word) : Prop :=
  s.ConfigInRange ∧ s.status = .running ∧ 0 ≤ s.pcWord ∧ s.cfg.prog[s.pcWord.toNat]? = some w

/-- The states any number of steps reach, the first included. -/
inductive State.Reaches (s : State) : State → Prop where
  | here : State.Reaches s s
  | step {t u : State} (before : State.Reaches s t) (last : Machine.step t = .next u) : State.Reaches s u

end Sys2Proof.Machine
end

