-- ==== Sys2Proof/Certificates/Slice0/Obligations.lean ====
section
/-! DEFINITION. The statements for the provers. Results are stated over integers, single bits and single bytes, not over the bit-vector
operations the meanings use, and an instruction's statement also says which words encode it, with the fields written side by
side as 30_encoding.md R94 lays them out. -/

open Sys2Proof Sys2Proof.Machine

/-! ### Decoding and encoding -/

/-- R81, with the formulas R82 to R86 quote: every field of every word is a mask and a shift of it. -/
def Obligations.FieldsAreMasksAndShifts : Prop :=
  ∀ w : Word,
    (decodeRecord w).raw = w ∧
    (decodeRecord w).opcode.setWidth 32 = w &&& 0x7F#32 ∧
    (decodeRecord w).rd.setWidth 32 = (w >>> 7) &&& 0x1F#32 ∧
    (decodeRecord w).funct3.setWidth 32 = (w >>> 12) &&& 0x7#32 ∧
    (decodeRecord w).rs1.setWidth 32 = (w >>> 15) &&& 0x1F#32 ∧
    (decodeRecord w).rs2.setWidth 32 = (w >>> 20) &&& 0x1F#32 ∧
    (decodeRecord w).funct7.setWidth 32 = (w >>> 25) &&& 0x7F#32

/-- R87 to R91: the immediate of a word of each format that has one, bit by bit or by the document's formula, and its range. -/
def Obligations.ImmediateOfEveryFormat : Prop :=
  ∀ (w imm : Word), (decodeRecord w).imm = imm →
    ((decodeRecord w).format = .i →
      imm = w.sshiftRight 20 ∧ -2048 ≤ imm.toInt ∧ imm.toInt ≤ 2047) ∧
    ((decodeRecord w).format = .s →
      (∀ i : Nat, i < 32 → imm.getLsbD i =
        if i < 5 then w.getLsbD (i + 7) else if i < 12 then w.getLsbD (i + 20) else w.getLsbD 31) ∧
      -2048 ≤ imm.toInt ∧ imm.toInt ≤ 2047) ∧
    ((decodeRecord w).format = .b →
      (∀ i : Nat, i < 32 → imm.getLsbD i =
        if i = 0 then false else if i < 5 then w.getLsbD (i + 7) else if i < 11 then w.getLsbD (i + 20)
        else if i = 11 then w.getLsbD 7 else w.getLsbD 31) ∧
      -4096 ≤ imm.toInt ∧ imm.toInt ≤ 4094 ∧ imm.toInt % 2 = 0) ∧
    ((decodeRecord w).format = .u →
      imm = w &&& 0xFFFFF000#32 ∧ imm.toInt % 4096 = 0 ∧ -(2 : Int) ^ 31 ≤ imm.toInt ∧ imm.toInt ≤ 2 ^ 31 - 4096) ∧
    ((decodeRecord w).format = .j →
      (∀ i : Nat, i < 32 → imm.getLsbD i =
        if i = 0 then false else if i < 11 then w.getLsbD (i + 20) else if i = 11 then w.getLsbD 20
        else if i < 20 then w.getLsbD i else w.getLsbD 31) ∧
      -1048576 ≤ imm.toInt ∧ imm.toInt ≤ 1048574 ∧ imm.toInt % 2 = 0)

/-- R93: the eleven opcodes of the six formats; every other opcode is Unknown. The immediate 0 of formats R and Unknown is the spec's
decision D25. -/
def Obligations.FormatIsAFunctionOfTheOpcode : Prop :=
  (∀ w : Word, (decodeRecord w).format = formatOf (decodeRecord w).opcode) ∧
  (∀ op : BitVec 7,
    (formatOf op = .r ↔ op = 0x33#7) ∧
    (formatOf op = .i ↔ op ∈ [0x67#7, 0x03#7, 0x13#7, 0x0F#7, 0x73#7]) ∧
    (formatOf op = .s ↔ op = 0x23#7) ∧
    (formatOf op = .b ↔ op = 0x63#7) ∧
    (formatOf op = .u ↔ op ∈ [0x37#7, 0x17#7]) ∧
    (formatOf op = .j ↔ op = 0x6F#7)) ∧
  (∀ w : Word, (decodeRecord w).format = .r ∨ (decodeRecord w).format = .unknown → (decodeRecord w).imm = 0#32)

/-- R111, one direction: no bit of an encoding is dropped. -/
def Obligations.DecodeOfEncodeIsTheInstruction : Prop :=
  ∀ i : Instr, i.wellFormed = true → decode (encode i) = .ok i

/-- R111, the other direction: a recognised word is the encoding of the instruction it decodes to, and that is well formed. -/
def Obligations.EncodeOfDecodeIsTheWord : Prop :=
  ∀ (w : Word) (i : Instr), decode w = .ok i → encode i = w ∧ i.wellFormed = true

/-- R104: recognition is membership in one row of the opcode table, the row of the decoded instruction; the rows are disjoint; the
two kinds of unrecognised word are told apart by the format. That both kinds run alike is the spec's decision D10. -/
def Obligations.RecognitionIsTheOpcodeTable : Prop :=
  (∀ w : Word, (∃ i, decode w = .ok i) ↔ ∃ r ∈ opcodeTable, r.Has w) ∧
  (∀ (w : Word) (i : Instr), decode w = .ok i → ∃ r ∈ opcodeTable, r.mnemonic = i.mnemonic ∧ r.Has w) ∧
  (∀ w : Word, ∀ r ∈ opcodeTable, ∀ q ∈ opcodeTable, r.Has w → q.Has w → r = q) ∧
  (∀ w : Word, decode w = .error .unknownOpcode ↔ (decodeRecord w).format = .unknown) ∧
  (∀ (w : Word) (e : Unrecognised) (s : State), decode w = .error e →
    ∃ t, execWord w s = .next t ∧ ReportsOnly s t .decodeUnknownOpcode)

/-- R106, the spec's decision D10: which function-field values of a recognised opcode select no instruction; each such word is a reported
no-op. -/
def Obligations.ReservedFunctionFieldsAreUnrecognised : Prop :=
  ∀ w : Word, ∀ d : Record, decodeRecord w = d →
    (decode w = .error .unassignedFunction ↔
      (d.opcode = 0x33#7 ∧ d.funct7 ≠ 0b0000000#7 ∧ d.funct7 ≠ 0b0100000#7) ∨
      (d.opcode = 0x33#7 ∧ d.funct7 = 0b0100000#7 ∧ d.funct3 ≠ 0b000#3 ∧ d.funct3 ≠ 0b101#3) ∨
      (d.opcode = 0x13#7 ∧ d.funct3 = 0b001#3 ∧ d.funct7 ≠ 0b0000000#7) ∨
      (d.opcode = 0x13#7 ∧ d.funct3 = 0b101#3 ∧ d.funct7 ≠ 0b0000000#7 ∧ d.funct7 ≠ 0b0100000#7) ∨
      (d.opcode = 0x03#7 ∧ (d.funct3 = 0b011#3 ∨ d.funct3 = 0b110#3 ∨ d.funct3 = 0b111#3)) ∨
      (d.opcode = 0x23#7 ∧ 3 ≤ d.funct3.toNat) ∨
      (d.opcode = 0x63#7 ∧ (d.funct3 = 0b010#3 ∨ d.funct3 = 0b011#3)) ∨
      (d.opcode = 0x67#7 ∧ d.funct3 ≠ 0b000#3) ∨
      (d.opcode = 0x0F#7 ∧ 2 ≤ d.funct3.toNat) ∨
      (d.opcode = 0x73#7 ∧ d.funct3 = 0b000#3 ∧ 2 ≤ (w >>> 20).toNat) ∨
      (d.opcode = 0x73#7 ∧ d.funct3 = 0b100#3)) ∧
    (decode w = .error .unassignedFunction →
      ∀ s : State, ∃ t, execWord w s = .next t ∧ ReportsOnly s t .decodeUnknownOpcode)

/-- 95_test_vectors.md T1: words written out there, and the instructions they stand for. -/
def Obligations.WordsOfTheTestVectorsDecode : Prop :=
  decode 0xFFD08113#32 = .ok (.addi 2#5 1#5 (-3#12)) ∧
  decode 0x402081B3#32 = .ok (.sub 3#5 1#5 2#5) ∧
  decode 0x41F0D113#32 = .ok (.srai 2#5 1#5 31#5) ∧
  decode 0x00032383#32 = .ok (.lw 7#5 6#5 0#12) ∧
  decode 0xFE531FA3#32 = .ok (.sh 5#5 6#5 (-1#12)) ∧
  decode 0xFE000CE3#32 = .ok (.beq 0#5 0#5 (-8#13)) ∧
  decode 0xFF1FF0EF#32 = .ok (.jal 1#5 (-16#21)) ∧
  decode 0xFFC280E7#32 = .ok (.jalr 1#5 5#5 (-4#12)) ∧
  decode 0x123452B7#32 = .ok (.lui 5#5 0x12345#20) ∧
  decode 0x8330000F#32 = .ok (.fence 8#4 3#4 3#4 0#5 0#5) ∧
  decode 0x00100073#32 = .ok (.ebreak 0#5 0#5) ∧
  decode 0xC00022F3#32 = .ok (.csrrs 5#5 0xC00#12 0#5) ∧
  decode 0x02208033#32 = .error .unassignedFunction ∧
  decode 0xFFFFFFFF#32 = .error .unknownOpcode

/-! ### The step -/

/-- R123 lines 2 to 5: a step whose word decodes to `i` is `exec i` on the state with result Ok, then, unless the instruction raised,
the clamp of the stored x0. That the clamp does not run after an instruction that raised is the spec's decision D39 (assumption 15). -/
def Obligations.StepRunsTheDecodedInstruction : Prop :=
  ∀ (s : State) (w : Word) (i : Instr), s.Fetches w → decode w = .ok i →
    ∃ t, exec i { s with result := some .ok } = .next t ∧
      step s = .next (match t.status with
        | .faulted _ _ => t
        | .running => { t with regs := t.regs.set 0 0#32 }
        | .halted _ => { t with regs := t.regs.set 0 0#32 })

/-- R124, the spec's decision D21: a step asked of a halted or faulted engine returns Stopped and changes nothing else, however often it
is asked. -/
def Obligations.StoppedEngineStaysStopped : Prop :=
  ∀ s : State, s.ConfigInRange → s.status ≠ .running →
    step s = .next { s with result := some .stopped } ∧
    ∀ t : State, s.Reaches t → t = s ∨ t = { s with result := some .stopped }

/-- R287, the spec's decision D6: a negative pc_word fails without a fetch, and only a branch, JAL or JALR makes pc_word negative. -/
def Obligations.NegativePcWordFails : Prop :=
  (∀ s : State, s.ConfigInRange → s.status = .running → s.pcWord < 0 →
    step s = .next { s with status := .faulted .pcOutOfRange s.pcWord
                            result := some (.fatal .pcOutOfRange s.pcWord) }) ∧
  (∀ s t : State, step s = .next t → 0 ≤ s.pcWord → t.pcWord < 0 →
    ∃ w i, s.Fetches w ∧ decode w = .ok i ∧ i.controlTransfer = true)

/-- R125: at or past PROG_LEN the step executes nothing and the run ends with Halted(None); an empty program ends at once. -/
def Obligations.RunningOffTheEndHalts : Prop :=
  (∀ s : State, s.ConfigInRange → s.status = .running → (s.cfg.prog.length : Int) ≤ s.pcWord → 0 ≤ s.pcWord →
    step s = .next { s with status := .halted none, result := some .ended }) ∧
  (∀ c : Config, c.InRange → c.prog = [] →
    ∃ t, step (State.resetWith c) = .next t ∧ t.status = .halted none ∧ t.pcWord = 0)

/-- R130: a word that is no instruction is a reported no-op, whatever its fields; the three words R130 names are such words. That a word
of a known opcode with an unassigned function field is one too is the spec's decision D10 (assumption 12). -/
def Obligations.UnrecognisedWordIsAReportedNoOp : Prop :=
  (∀ (s : State) (w : Word) (e : Unrecognised), s.Fetches w → decode w = .error e →
    ∃ t, step s = .next t ∧ ReportsOnly s t .decodeUnknownOpcode ∧ t.status = .running) ∧
  (∃ e, decode 0x00000000#32 = .error e) ∧ (∃ e, decode 0xFFFFFFFF#32 = .error e) ∧
  (∃ e, decode 0x02208033#32 = .error e)

/-- The engine surfaces every event as a next state: a step is refused exactly for a configuration outside R6 (S10, S11), and no step
faults (assumptions 4, 5). -/
def Obligations.EveryStepAnswersNext : Prop :=
  ∀ s : State,
    (s.ConfigInRange → ∃ t, step s = .next t) ∧
    (¬ s.ConfigInRange → step s = .refused .configurationOutOfRange)

/-- R40, with the range of R28 and the statuses of R128 and R335: every step keeps the invariant. Clauses of `State.StatusAgrees` and
`State.ResultAgrees` that are the spec's decisions: pc_word after an exit (D17, assumption 10), PcOutOfRange at a negative index
(D6, assumption 9), the fault's index equal to pc_word (D20, assumptions 4, 17), Stopped (D21, assumption 15). The bounds of pc_word
rest on its being a signed integer that does not wrap (D5) and on sdiv4 (D7), assumption 9, and on the ranges of R6 (D1, D2,
assumption 5). -/
def Obligations.EveryStepKeepsTheInvariant : Prop :=
  ∀ s t : State, s.Inv → step s = .next t → t.Inv

/-- Reset meets the invariant under every well-formed configuration, also as a second reset (R320, the spec's decision D26);
`State.reset` has the configuration of assumption 1, the model's choice. -/
def Obligations.ResetMeetsTheInvariant : Prop :=
  (∀ c : Config, c.WellFormed → (State.resetWith c).Inv) ∧ (∀ s : State, s.cfg.WellFormed → s.resetAgain.Inv) ∧
    State.reset.Inv

/-- R39: the reset value of every piece of state, for every configuration. That x2 resets to a parameter SP_INIT is the spec's decision
D3 (assumption 1), and that a byte the loader does not list reads 0 is its decision D4 (assumption 8). -/
def Obligations.ResetValues : Prop :=
  ∀ c : Config,
    (State.resetWith c).readReg 2#5 = c.spInit ∧
    (∀ r : Reg, r ≠ 2#5 → (State.resetWith c).readReg r = 0#32) ∧
    (State.resetWith c).regs[0] = 0#32 ∧
    (State.resetWith c).pcWord = 0 ∧ (State.resetWith c).pc = 0#32 ∧
    (State.resetWith c).status = .running ∧
    (∀ a : Nat, (State.resetWith c).byteAt a = Memory.read c.memInit a) ∧
    (c.memInit = [] → ∀ a : Nat, (State.resetWith c).byteAt a = 0#8) ∧
    (State.resetWith c).out = [] ∧
    (State.resetWith c).cfg = c

/-- R127: the clamp leaves 0 stored in x0 after every executed instruction, an exit-class ECALL included; a step that executes nothing
or fails leaves the registers alone (the spec's decision D39); x0 reads 0 after every step. -/
def Obligations.ClampAfterEveryExecutedInstruction : Prop :=
  ∀ s t : State, step s = .next t →
    t.readReg 0#5 = 0#32 ∧
    ((∃ w, s.Fetches w) → (∀ k n, t.status ≠ .faulted k n) → t.regs[0] = 0#32) ∧
    ((¬ ∃ w, s.Fetches w) → t.regs = s.regs) ∧
    ((∃ w, s.Fetches w) → (∃ k n, t.status = .faulted k n) → t.regs = s.regs)

/-- R20, R33: no run changes the configuration, the program included, so no store is ever seen by a fetch. -/
def Obligations.ConfigurationNeverChanges : Prop :=
  ∀ s t : State, s.Reaches t → t.cfg = s.cfg

/-- R20, R200: a byte of memory changes only in a step that executes SB, SH or SW, and only inside the memory. -/
def Obligations.OnlyStoresChangeMemory : Prop :=
  ∀ (s t : State) (a : Nat), s.mem.wf = true → step s = .next t → t.byteAt a ≠ s.byteAt a →
    a < s.cfg.memSize ∧ ∃ w i, s.Fetches w ∧ decode w = .ok i ∧ 0 < i.storeWidth

/-- R36: OUT only grows, by at most one event a step, and only in an ECALL with x10 = 1, 4 or 11. -/
def Obligations.OnlyEnvironmentCallsAppendOutput : Prop :=
  ∀ s t : State, step s = .next t →
    t.out = s.out ∨
    ∃ e w rs1 rd, t.out = s.out ++ [e] ∧ s.Fetches w ∧ decode w = .ok (.ecall rs1 rd) ∧
      (s.readReg 10#5 = 1#32 ∨ s.readReg 10#5 = 4#32 ∨ s.readReg 10#5 = 11#32)

/-- R288, from R281 to R287: what each of the four events records, with everything else unchanged. Decisions of the spec: PcOutOfRange
(D6, assumption 9); status, pc_word and all else after a fatal event (D20, assumptions 4, 17); that an unassigned function field is
reported as DecodeUnknownOpcode (D10, assumption 12). -/
def Obligations.EventsRecordOnlyTheirIndex : Prop :=
  ∀ (s t : State) (k : ErrorKind) (n : Int), step s = .next t →
    (t.result = some (.report k n) →
      (k = .decodeUnknownOpcode ∨ k = .unimplementedEnvironmentCall) ∧ n = s.pcWord ∧
      t.status = .running ∧ t.pcWord = n + 1 ∧
      SameRegisters s t ∧ t.mem = s.mem ∧ t.out = s.out ∧ t.cfg = s.cfg) ∧
    (t.result = some (.fatal k n) →
      (k = .outOfBoundsMemoryAccess ∧ 0 ≤ n ∨ k = .pcOutOfRange ∧ n < 0) ∧ n = s.pcWord ∧
      t.status = .faulted k n ∧ t.pcWord = n ∧
      SameRegisters s t ∧ t.mem = s.mem ∧ t.out = s.out ∧ t.cfg = s.cfg)

/-- R26: every instruction that does not raise and is no branch or jump moves pc_word by one; one that raises leaves it (the
spec's decision D20, assumptions 4, 17); the byte address of any index is a multiple of 4. -/
def Obligations.PcWordMovesByOneUnlessControlTransfers : Prop :=
  (∀ (i : Instr) (s t : State), exec i s = .next t →
    (i.controlTransfer = false ∧ t.pcWord = s.pcWord + 1) ∨ i.controlTransfer = true ∨
      FailsWith s t .outOfBoundsMemoryAccess) ∧
  (∀ k : Int, (byteAddress k).toNat % 4 = 0)

/-- R24, the column of writes, as a frame of the whole machine: a register changes only where it is the instruction's destination, and
x0 never does. -/
def Obligations.RegistersChangeOnlyAsDestination : Prop :=
  ∀ (i : Instr) (s t : State) (r : Reg), exec i s = .next t → t.readReg r ≠ s.readReg r →
    i.destination = some r ∧ r ≠ 0#5

/-- R24, the column of reads: an instruction's effect does not depend on a register it does not read. -/
def Obligations.EffectDependsOnlyOnSourceRegisters : Prop :=
  ∀ (i : Instr) (s t : State) (r : Reg) (v : Word),
    r ∉ i.sources (s.readReg 10#5) → exec i s = .next t →
    ∃ u, exec i (s.writeReg r v) = .next u ∧
      u.mem = t.mem ∧ u.pcWord = t.pcWord ∧ u.out = t.out ∧ u.status = t.status ∧ u.result = t.result ∧ u.cfg = t.cfg ∧
      (∀ q : Reg, q ≠ r → u.readReg q = t.readReg q) ∧
      (i.destination = some r → ¬ FailsWith s t .outOfBoundsMemoryAccess → u.readReg r = t.readReg r)

/-- R36: no instruction reads OUT: with another output history a step does the same and appends the same events. -/
def Obligations.OutputHistoryIsNeverRead : Prop :=
  ∀ (s t : State) (o : List Event), step s = .next t →
    ∃ es : List Event, t.out = s.out ++ es ∧ step { s with out := o } = .next { t with out := o ++ es }

/-- R22, R37: the stored value of x0 is seen by nothing: whatever it was, an executed instruction leaves the same state. -/
def Obligations.StoredValueOfX0IsInvisible : Prop :=
  ∀ (s t : State) (w v : Word), s.Fetches w → step s = .next t → (∀ k n, t.status ≠ .faulted k n) →
    step { s with regs := s.regs.set 0 v } = .next t

/-! ### R-type arithmetic (41_r_type.md) -/

/-- R151, R152: ADD and SUB, modulo 2^32. -/
def Obligations.AddAndSubWrap : Prop :=
  ∀ (rd rs1 rs2 : Reg) (s : State),
    decode (0b0000000#7 ++ rs2 ++ rs1 ++ 0b000#3 ++ rd ++ 0b0110011#7) = .ok (.add rd rs1 rs2) ∧
    (∃ t, exec (.add rd rs1 rs2) s = .next t ∧
      WritesOnly s t rd (BitVec.ofInt 32 ((s.readReg rs1).toInt + (s.readReg rs2).toInt)) (s.pcWord + 1)) ∧
    decode (0b0100000#7 ++ rs2 ++ rs1 ++ 0b000#3 ++ rd ++ 0b0110011#7) = .ok (.sub rd rs1 rs2) ∧
    (∃ t, exec (.sub rd rs1 rs2) s = .next t ∧
      WritesOnly s t rd (BitVec.ofInt 32 ((s.readReg rs1).toInt - (s.readReg rs2).toInt)) (s.pcWord + 1))

/-- R153, R157, R158: the shifts by a register, count x[rs2] mod 32. SRA is the floor of the signed quotient. -/
def Obligations.RegisterShiftsUseLowFiveBits : Prop :=
  ∀ (rd rs1 rs2 : Reg) (s : State) (sh : Nat), (s.readReg rs2).toNat % 32 = sh →
    decode (0b0000000#7 ++ rs2 ++ rs1 ++ 0b001#3 ++ rd ++ 0b0110011#7) = .ok (.sll rd rs1 rs2) ∧
    (∃ t, exec (.sll rd rs1 rs2) s = .next t ∧
      WritesOnly s t rd (BitVec.ofNat 32 ((s.readReg rs1).toNat * 2 ^ sh)) (s.pcWord + 1)) ∧
    decode (0b0000000#7 ++ rs2 ++ rs1 ++ 0b101#3 ++ rd ++ 0b0110011#7) = .ok (.srl rd rs1 rs2) ∧
    (∃ t, exec (.srl rd rs1 rs2) s = .next t ∧
      WritesOnly s t rd (BitVec.ofNat 32 ((s.readReg rs1).toNat / 2 ^ sh)) (s.pcWord + 1)) ∧
    decode (0b0100000#7 ++ rs2 ++ rs1 ++ 0b101#3 ++ rd ++ 0b0110011#7) = .ok (.sra rd rs1 rs2) ∧
    (∃ t, exec (.sra rd rs1 rs2) s = .next t ∧
      WritesOnly s t rd (BitVec.ofInt 32 ((s.readReg rs1).toInt / 2 ^ sh)) (s.pcWord + 1))

/-- R154, R155: SLT compares signed, SLTU unsigned; the result is 1 or 0. -/
def Obligations.SetLessThanSignedAndUnsigned : Prop :=
  ∀ (rd rs1 rs2 : Reg) (s : State),
    decode (0b0000000#7 ++ rs2 ++ rs1 ++ 0b010#3 ++ rd ++ 0b0110011#7) = .ok (.slt rd rs1 rs2) ∧
    (∃ t, exec (.slt rd rs1 rs2) s = .next t ∧
      WritesOnly s t rd (if (s.readReg rs1).toInt < (s.readReg rs2).toInt then 1#32 else 0#32) (s.pcWord + 1)) ∧
    decode (0b0000000#7 ++ rs2 ++ rs1 ++ 0b011#3 ++ rd ++ 0b0110011#7) = .ok (.sltu rd rs1 rs2) ∧
    (∃ t, exec (.sltu rd rs1 rs2) s = .next t ∧
      WritesOnly s t rd (if (s.readReg rs1).toNat < (s.readReg rs2).toNat then 1#32 else 0#32) (s.pcWord + 1))

/-- R156, R159, R160: XOR, OR, AND, bit by bit. -/
def Obligations.RegisterLogicIsBitwise : Prop :=
  ∀ (rd rs1 rs2 : Reg) (s : State),
    decode (0b0000000#7 ++ rs2 ++ rs1 ++ 0b100#3 ++ rd ++ 0b0110011#7) = .ok (.xor rd rs1 rs2) ∧
    (∃ t v, exec (.xor rd rs1 rs2) s = .next t ∧ WritesOnly s t rd v (s.pcWord + 1) ∧
      ∀ i : Nat, v.getLsbD i = ((s.readReg rs1).getLsbD i != (s.readReg rs2).getLsbD i)) ∧
    decode (0b0000000#7 ++ rs2 ++ rs1 ++ 0b110#3 ++ rd ++ 0b0110011#7) = .ok (.or rd rs1 rs2) ∧
    (∃ t v, exec (.or rd rs1 rs2) s = .next t ∧ WritesOnly s t rd v (s.pcWord + 1) ∧
      ∀ i : Nat, v.getLsbD i = ((s.readReg rs1).getLsbD i || (s.readReg rs2).getLsbD i)) ∧
    decode (0b0000000#7 ++ rs2 ++ rs1 ++ 0b111#3 ++ rd ++ 0b0110011#7) = .ok (.and rd rs1 rs2) ∧
    (∃ t v, exec (.and rd rs1 rs2) s = .next t ∧ WritesOnly s t rd v (s.pcWord + 1) ∧
      ∀ i : Nat, v.getLsbD i = ((s.readReg rs1).getLsbD i && (s.readReg rs2).getLsbD i))

/-! ### I-type arithmetic (42_i_arith.md) -/

/-- R171, R172, R173: ADDI, SLTI, SLTIU. The immediate is sign-extended first, also for the unsigned comparison. -/
def Obligations.ImmediateAddAndCompare : Prop :=
  ∀ (rd rs1 : Reg) (imm : BitVec 12) (s : State),
    decode (imm ++ rs1 ++ 0b000#3 ++ rd ++ 0b0010011#7) = .ok (.addi rd rs1 imm) ∧
    (∃ t, exec (.addi rd rs1 imm) s = .next t ∧
      WritesOnly s t rd (BitVec.ofInt 32 ((s.readReg rs1).toInt + imm.toInt)) (s.pcWord + 1)) ∧
    decode (imm ++ rs1 ++ 0b010#3 ++ rd ++ 0b0010011#7) = .ok (.slti rd rs1 imm) ∧
    (∃ t, exec (.slti rd rs1 imm) s = .next t ∧
      WritesOnly s t rd (if (s.readReg rs1).toInt < imm.toInt then 1#32 else 0#32) (s.pcWord + 1)) ∧
    decode (imm ++ rs1 ++ 0b011#3 ++ rd ++ 0b0010011#7) = .ok (.sltiu rd rs1 imm) ∧
    (∃ t, exec (.sltiu rd rs1 imm) s = .next t ∧
      WritesOnly s t rd (if ((s.readReg rs1).toNat : Int) < imm.toInt % 2 ^ 32 then 1#32 else 0#32) (s.pcWord + 1))

/-- R174, R175, R176: XORI, ORI, ANDI with the sign-extended immediate: its bit 11 stands for every bit above. -/
def Obligations.ImmediateLogicIsBitwise : Prop :=
  ∀ (rd rs1 : Reg) (imm : BitVec 12) (s : State),
    decode (imm ++ rs1 ++ 0b100#3 ++ rd ++ 0b0010011#7) = .ok (.xori rd rs1 imm) ∧
    (∃ t v, exec (.xori rd rs1 imm) s = .next t ∧ WritesOnly s t rd v (s.pcWord + 1) ∧
      ∀ i : Nat, i < 32 → v.getLsbD i = ((s.readReg rs1).getLsbD i != imm.getLsbD (min i 11))) ∧
    decode (imm ++ rs1 ++ 0b110#3 ++ rd ++ 0b0010011#7) = .ok (.ori rd rs1 imm) ∧
    (∃ t v, exec (.ori rd rs1 imm) s = .next t ∧ WritesOnly s t rd v (s.pcWord + 1) ∧
      ∀ i : Nat, i < 32 → v.getLsbD i = ((s.readReg rs1).getLsbD i || imm.getLsbD (min i 11))) ∧
    decode (imm ++ rs1 ++ 0b111#3 ++ rd ++ 0b0010011#7) = .ok (.andi rd rs1 imm) ∧
    (∃ t v, exec (.andi rd rs1 imm) s = .next t ∧ WritesOnly s t rd v (s.pcWord + 1) ∧
      ∀ i : Nat, i < 32 → v.getLsbD i = ((s.readReg rs1).getLsbD i && imm.getLsbD (min i 11)))

/-- R177, R178, R179: the shifts by an immediate count. What a word with another funct7 does is in
`ReservedFunctionFieldsAreUnrecognised`. -/
def Obligations.ImmediateShifts : Prop :=
  ∀ (rd rs1 : Reg) (shamt : BitVec 5) (s : State),
    decode (0b0000000#7 ++ shamt ++ rs1 ++ 0b001#3 ++ rd ++ 0b0010011#7) = .ok (.slli rd rs1 shamt) ∧
    (∃ t, exec (.slli rd rs1 shamt) s = .next t ∧
      WritesOnly s t rd (BitVec.ofNat 32 ((s.readReg rs1).toNat * 2 ^ shamt.toNat)) (s.pcWord + 1)) ∧
    decode (0b0000000#7 ++ shamt ++ rs1 ++ 0b101#3 ++ rd ++ 0b0010011#7) = .ok (.srli rd rs1 shamt) ∧
    (∃ t, exec (.srli rd rs1 shamt) s = .next t ∧
      WritesOnly s t rd (BitVec.ofNat 32 ((s.readReg rs1).toNat / 2 ^ shamt.toNat)) (s.pcWord + 1)) ∧
    decode (0b0100000#7 ++ shamt ++ rs1 ++ 0b101#3 ++ rd ++ 0b0010011#7) = .ok (.srai rd rs1 shamt) ∧
    (∃ t, exec (.srai rd rs1 shamt) s = .next t ∧
      WritesOnly s t rd (BitVec.ofInt 32 ((s.readReg rs1).toInt / 2 ^ shamt.toNat)) (s.pcWord + 1))

/-! ### Data memory: the primitives, loads, stores -/

/-- R51, R53: MemRead gives the little-endian value of 1, 2 or 4 bytes at any alignment, and nothing out of bounds, where the bound is
checked for the whole access and does not wrap (the spec's decisions D23, D24, assumption 17). -/
def Obligations.MemReadIsLittleEndian : Prop :=
  ∀ (s : State) (addr : Word) (a : Nat), addr.toNat = a →
    (a + 1 ≤ s.cfg.memSize → s.memRead addr 1 = some ((s.byteAt a).setWidth 32)) ∧
    (a + 2 ≤ s.cfg.memSize → s.memRead addr 2 = some ((s.byteAt (a + 1) ++ s.byteAt a).setWidth 32)) ∧
    (a + 4 ≤ s.cfg.memSize →
      s.memRead addr 4 = some (s.byteAt (a + 3) ++ s.byteAt (a + 2) ++ s.byteAt (a + 1) ++ s.byteAt a)) ∧
    (∀ n : Nat, s.cfg.memSize < a + n → s.memRead addr n = none)

/-- R58: a mixed-width access sees bytes: after a 4-byte write, any access inside it reads the bits of the value at its place.
A memory in the range of R6 ends at 2^31, so the address inside the written bytes does not wrap. -/
def Obligations.NarrowReadAfterWideWrite : Prop :=
  ∀ (s t : State) (addr v : Word) (i n : Nat), s.ConfigInRange → s.mem.wf = true → s.memWrite addr 4 v = some t → i + n ≤ 4 →
    t.memRead (addr + BitVec.ofNat 32 i) n = some ((v >>> (8 * i)) &&& BitVec.ofNat 32 (2 ^ (8 * n) - 1))

/-- R191, R194: LB and LBU, at every address; out of bounds nothing but the failure (R190, R284). The bound is the spec's decision D23,
what the failure leaves its decision D20 (assumptions 4, 17). -/
def Obligations.LoadByteSignedAndUnsigned : Prop :=
  ∀ (rd rs1 : Reg) (imm : BitVec 12) (s : State) (addr : Word), s.effectiveAddress rs1 imm = addr →
    addr = BitVec.ofInt 32 ((s.readReg rs1).toInt + imm.toInt) ∧
    decode (imm ++ rs1 ++ 0b000#3 ++ rd ++ 0b0000011#7) = .ok (.lb rd rs1 imm) ∧
    decode (imm ++ rs1 ++ 0b100#3 ++ rd ++ 0b0000011#7) = .ok (.lbu rd rs1 imm) ∧
    (addr.toNat < s.cfg.memSize →
      (∃ t, exec (.lb rd rs1 imm) s = .next t ∧
        WritesOnly s t rd (BitVec.ofInt 32 (s.byteAt addr.toNat).toInt) (s.pcWord + 1)) ∧
      (∃ t, exec (.lbu rd rs1 imm) s = .next t ∧
        WritesOnly s t rd (BitVec.ofNat 32 (s.byteAt addr.toNat).toNat) (s.pcWord + 1))) ∧
    (s.cfg.memSize ≤ addr.toNat →
      (∃ t, exec (.lb rd rs1 imm) s = .next t ∧ FailsWith s t .outOfBoundsMemoryAccess) ∧
      (∃ t, exec (.lbu rd rs1 imm) s = .next t ∧ FailsWith s t .outOfBoundsMemoryAccess))

/-- R192, R195: LH and LHU, at every address, odd ones included. Where they fail (R190, R284) is the spec's decisions D23 and D24, an
access at MEM_SIZE - 1 failing as a whole; what the failure leaves is its decision D20 (assumptions 4, 17). -/
def Obligations.LoadHalfwordSignedAndUnsigned : Prop :=
  ∀ (rd rs1 : Reg) (imm : BitVec 12) (s : State) (addr : Word), s.effectiveAddress rs1 imm = addr →
    addr = BitVec.ofInt 32 ((s.readReg rs1).toInt + imm.toInt) ∧
    decode (imm ++ rs1 ++ 0b001#3 ++ rd ++ 0b0000011#7) = .ok (.lh rd rs1 imm) ∧
    decode (imm ++ rs1 ++ 0b101#3 ++ rd ++ 0b0000011#7) = .ok (.lhu rd rs1 imm) ∧
    (addr.toNat + 2 ≤ s.cfg.memSize →
      (∃ t, exec (.lh rd rs1 imm) s = .next t ∧
        WritesOnly s t rd (BitVec.ofInt 32 (s.byteAt (addr.toNat + 1) ++ s.byteAt addr.toNat).toInt) (s.pcWord + 1)) ∧
      (∃ t, exec (.lhu rd rs1 imm) s = .next t ∧
        WritesOnly s t rd (BitVec.ofNat 32 (s.byteAt (addr.toNat + 1) ++ s.byteAt addr.toNat).toNat) (s.pcWord + 1))) ∧
    (s.cfg.memSize < addr.toNat + 2 →
      (∃ t, exec (.lh rd rs1 imm) s = .next t ∧ FailsWith s t .outOfBoundsMemoryAccess) ∧
      (∃ t, exec (.lhu rd rs1 imm) s = .next t ∧ FailsWith s t .outOfBoundsMemoryAccess))

/-- R193: LW, at every address. Where it fails (R190, R284) is the spec's decisions D23 and D24, what the failure leaves its decision D20
(assumptions 4, 17). -/
def Obligations.LoadWordAtAnyAlignment : Prop :=
  ∀ (rd rs1 : Reg) (imm : BitVec 12) (s : State) (addr : Word), s.effectiveAddress rs1 imm = addr →
    addr = BitVec.ofInt 32 ((s.readReg rs1).toInt + imm.toInt) ∧
    decode (imm ++ rs1 ++ 0b010#3 ++ rd ++ 0b0000011#7) = .ok (.lw rd rs1 imm) ∧
    (addr.toNat + 4 ≤ s.cfg.memSize →
      ∃ t, exec (.lw rd rs1 imm) s = .next t ∧
        WritesOnly s t rd (s.byteAt (addr.toNat + 3) ++ s.byteAt (addr.toNat + 2) ++ s.byteAt (addr.toNat + 1)
          ++ s.byteAt addr.toNat) (s.pcWord + 1)) ∧
    (s.cfg.memSize < addr.toNat + 4 →
      ∃ t, exec (.lw rd rs1 imm) s = .next t ∧ FailsWith s t .outOfBoundsMemoryAccess)

/-- R201, R202, R203: the stores. The address is the one the meaning computes; the bytes written are the n low bytes of x[rs2] from
there on; every other byte reads as before; out of bounds no byte is written, not even those inside the memory (R200, R284: the spec's
decisions D23 and D24 for the bound, D20 for what the failure leaves; assumptions 4, 17). The canonical form of memory is the
premise every step keeps (`State.Inv`). -/
def Obligations.StoresWriteExactlyTheirBytes : Prop :=
  ∀ (rs2 rs1 : Reg) (imm : BitVec 12) (s : State) (addr : Word), s.mem.wf = true → s.effectiveAddress rs1 imm = addr →
    addr = BitVec.ofInt 32 ((s.readReg rs1).toInt + imm.toInt) ∧
    decode (imm.extractLsb' 5 7 ++ rs2 ++ rs1 ++ 0b000#3 ++ imm.extractLsb' 0 5 ++ 0b0100011#7) = .ok (.sb rs2 rs1 imm) ∧
    decode (imm.extractLsb' 5 7 ++ rs2 ++ rs1 ++ 0b001#3 ++ imm.extractLsb' 0 5 ++ 0b0100011#7) = .ok (.sh rs2 rs1 imm) ∧
    decode (imm.extractLsb' 5 7 ++ rs2 ++ rs1 ++ 0b010#3 ++ imm.extractLsb' 0 5 ++ 0b0100011#7) = .ok (.sw rs2 rs1 imm) ∧
    (addr.toNat + 1 ≤ s.cfg.memSize →
      ∃ t, exec (.sb rs2 rs1 imm) s = .next t ∧ StoresOnly s t addr.toNat 1 (s.readReg rs2)) ∧
    (addr.toNat + 2 ≤ s.cfg.memSize →
      ∃ t, exec (.sh rs2 rs1 imm) s = .next t ∧ StoresOnly s t addr.toNat 2 (s.readReg rs2)) ∧
    (addr.toNat + 4 ≤ s.cfg.memSize →
      ∃ t, exec (.sw rs2 rs1 imm) s = .next t ∧ StoresOnly s t addr.toNat 4 (s.readReg rs2)) ∧
    (s.cfg.memSize < addr.toNat + 1 →
      ∃ t, exec (.sb rs2 rs1 imm) s = .next t ∧ FailsWith s t .outOfBoundsMemoryAccess) ∧
    (s.cfg.memSize < addr.toNat + 2 →
      ∃ t, exec (.sh rs2 rs1 imm) s = .next t ∧ FailsWith s t .outOfBoundsMemoryAccess) ∧
    (s.cfg.memSize < addr.toNat + 4 →
      ∃ t, exec (.sw rs2 rs1 imm) s = .next t ∧ FailsWith s t .outOfBoundsMemoryAccess)

/-- The document's round trip (T5): SW and then LW through the same base and displacement give the stored register back, at any
in-bounds address, aligned or not. -/
def Obligations.StoreThenLoadReturnsTheWord : Prop :=
  ∀ (rs2 rs1 rd : Reg) (imm : BitVec 12) (s : State), s.mem.wf = true → rd ≠ 0#5 →
    (s.effectiveAddress rs1 imm).toNat + 4 ≤ s.cfg.memSize →
    ∃ t u, exec (.sw rs2 rs1 imm) s = .next t ∧ exec (.lw rd rs1 imm) t = .next u ∧ u.readReg rd = s.readReg rs2

/-! ### Branches, jumps, upper immediates -/

/-- R211, R212: BEQ and BNE. The rounding of an offset that is no multiple of 4 is the spec's decision D7. -/
def Obligations.BranchesOnEquality : Prop :=
  ∀ (rs1 rs2 : Reg) (offset : BitVec 13) (s : State),
    (offset.getLsbD 0 = false →
      decode (offset.extractLsb' 12 1 ++ offset.extractLsb' 5 6 ++ rs2 ++ rs1 ++ 0b000#3 ++ offset.extractLsb' 1 4
        ++ offset.extractLsb' 11 1 ++ 0b1100011#7) = .ok (.beq rs1 rs2 offset) ∧
      decode (offset.extractLsb' 12 1 ++ offset.extractLsb' 5 6 ++ rs2 ++ rs1 ++ 0b001#3 ++ offset.extractLsb' 1 4
        ++ offset.extractLsb' 11 1 ++ 0b1100011#7) = .ok (.bne rs1 rs2 offset)) ∧
    (∃ t, exec (.beq rs1 rs2 offset) s = .next t ∧
      MovesOnly s t (if s.readReg rs1 = s.readReg rs2 then s.pcWord + offset.toInt.tdiv 4 else s.pcWord + 1)) ∧
    (∃ t, exec (.bne rs1 rs2 offset) s = .next t ∧
      MovesOnly s t (if s.readReg rs1 = s.readReg rs2 then s.pcWord + 1 else s.pcWord + offset.toInt.tdiv 4))

/-- R213, R214: BLT and BGE compare signed. The rounding of the offset is the spec's decision D7. -/
def Obligations.BranchesOnSignedOrder : Prop :=
  ∀ (rs1 rs2 : Reg) (offset : BitVec 13) (s : State),
    (offset.getLsbD 0 = false →
      decode (offset.extractLsb' 12 1 ++ offset.extractLsb' 5 6 ++ rs2 ++ rs1 ++ 0b100#3 ++ offset.extractLsb' 1 4
        ++ offset.extractLsb' 11 1 ++ 0b1100011#7) = .ok (.blt rs1 rs2 offset) ∧
      decode (offset.extractLsb' 12 1 ++ offset.extractLsb' 5 6 ++ rs2 ++ rs1 ++ 0b101#3 ++ offset.extractLsb' 1 4
        ++ offset.extractLsb' 11 1 ++ 0b1100011#7) = .ok (.bge rs1 rs2 offset)) ∧
    (∃ t, exec (.blt rs1 rs2 offset) s = .next t ∧
      MovesOnly s t (if (s.readReg rs1).toInt < (s.readReg rs2).toInt then s.pcWord + offset.toInt.tdiv 4
        else s.pcWord + 1)) ∧
    (∃ t, exec (.bge rs1 rs2 offset) s = .next t ∧
      MovesOnly s t (if (s.readReg rs2).toInt ≤ (s.readReg rs1).toInt then s.pcWord + offset.toInt.tdiv 4
        else s.pcWord + 1))

/-- R215, R216: BLTU and BGEU compare unsigned. The rounding of the offset is the spec's decision D7. -/
def Obligations.BranchesOnUnsignedOrder : Prop :=
  ∀ (rs1 rs2 : Reg) (offset : BitVec 13) (s : State),
    (offset.getLsbD 0 = false →
      decode (offset.extractLsb' 12 1 ++ offset.extractLsb' 5 6 ++ rs2 ++ rs1 ++ 0b110#3 ++ offset.extractLsb' 1 4
        ++ offset.extractLsb' 11 1 ++ 0b1100011#7) = .ok (.bltu rs1 rs2 offset) ∧
      decode (offset.extractLsb' 12 1 ++ offset.extractLsb' 5 6 ++ rs2 ++ rs1 ++ 0b111#3 ++ offset.extractLsb' 1 4
        ++ offset.extractLsb' 11 1 ++ 0b1100011#7) = .ok (.bgeu rs1 rs2 offset)) ∧
    (∃ t, exec (.bltu rs1 rs2 offset) s = .next t ∧
      MovesOnly s t (if (s.readReg rs1).toNat < (s.readReg rs2).toNat then s.pcWord + offset.toInt.tdiv 4
        else s.pcWord + 1)) ∧
    (∃ t, exec (.bgeu rs1 rs2 offset) s = .next t ∧
      MovesOnly s t (if (s.readReg rs2).toNat ≤ (s.readReg rs1).toNat then s.pcWord + offset.toInt.tdiv 4
        else s.pcWord + 1))

/-- R27, the spec's decision D7: sdiv4 in the three cases the rule names, its examples, and that it sees only even values. -/
def Obligations.Sdiv4RoundsTowardZero : Prop :=
  (∀ v : Word,
    (v.toInt % 4 = 0 → 4 * sdiv4 v = v.toInt) ∧
    (0 ≤ v.toInt → v.toInt % 4 = 2 → 4 * sdiv4 v = v.toInt - 2) ∧
    (v.toInt < 0 → v.toInt % 4 = 2 → 4 * sdiv4 v = v.toInt + 2)) ∧
  sdiv4 8#32 = 2 ∧ sdiv4 6#32 = 1 ∧ sdiv4 2#32 = 0 ∧ sdiv4 (-2#32) = 0 ∧ sdiv4 (-4#32) = -1 ∧ sdiv4 (-6#32) = -1 ∧
  sdiv4 (-8#32) = -2 ∧
  (∀ w : Word, (sext13 (immFieldB w)).toInt % 2 = 0 ∧ (sext21 (immFieldJ w)).toInt % 2 = 0 ∧
    (w &&& 0xFFFFFFFE#32).toInt % 2 = 0)

/-- R221: JAL writes the byte address of the next instruction and jumps relative to this one; the rounding of the offset is the spec's
decision D7. -/
def Obligations.JalLinksAndJumpsRelative : Prop :=
  ∀ (rd : Reg) (offset : BitVec 21) (s : State),
    (offset.getLsbD 0 = false →
      decode (offset.extractLsb' 20 1 ++ offset.extractLsb' 1 10 ++ offset.extractLsb' 11 1 ++ offset.extractLsb' 12 8
        ++ rd ++ 0b1101111#7) = .ok (.jal rd offset)) ∧
    ∃ t, exec (.jal rd offset) s = .next t ∧
      WritesOnly s t rd (BitVec.ofInt 32 (4 * (s.pcWord + 1))) (s.pcWord + offset.toInt.tdiv 4)

/-- R222: JALR jumps to the sum of the old x[rs1] and the immediate, bit 0 cleared, as a signed byte address divided by 4, also where
rd is rs1 (the spec's decisions D7, D8, D9). -/
def Obligations.JalrLinksAndJumpsAbsolute : Prop :=
  ∀ (rd rs1 : Reg) (imm : BitVec 12) (s : State),
    decode (imm ++ rs1 ++ 0b000#3 ++ rd ++ 0b1100111#7) = .ok (.jalr rd rs1 imm) ∧
    ∃ t, exec (.jalr rd rs1 imm) s = .next t ∧
      WritesOnly s t rd (BitVec.ofInt 32 (4 * (s.pcWord + 1)))
        ((BitVec.ofInt 32 (2 * (((s.readReg rs1).toInt + imm.toInt) / 2))).toInt.tdiv 4)

/-- R223: a return through an unmodified link reaches the word after the call. The last index a program of 2^29 words can have is left
out: its link is 2^31, which JALR reads as negative (R222 d, the spec's decision D8,
assumption 9). -/
def Obligations.CallThenReturnReachesTheNextWord : Prop :=
  ∀ (rd : Reg) (offset : BitVec 21) (s : State), rd ≠ 0#5 → 0 ≤ s.pcWord → s.pcWord < 2 ^ 29 - 1 →
    ∃ t, exec (.jal rd offset) s = .next t ∧
      ∀ u : State, u.readReg rd = t.readReg rd →
        ∃ v, exec (.jalr 0#5 rd 0#12) u = .next v ∧ v.pcWord = s.pcWord + 1 ∧ SameRegisters u v

/-- R230, R231: LUI and AUIPC. -/
def Obligations.UpperImmediates : Prop :=
  ∀ (rd : Reg) (imm20 : BitVec 20) (s : State),
    decode (imm20 ++ rd ++ 0b0110111#7) = .ok (.lui rd imm20) ∧
    (∃ t, exec (.lui rd imm20) s = .next t ∧
      WritesOnly s t rd (BitVec.ofNat 32 (imm20.toNat * 4096)) (s.pcWord + 1)) ∧
    decode (imm20 ++ rd ++ 0b0010111#7) = .ok (.auipc rd imm20) ∧
    (∃ t, exec (.auipc rd imm20) s = .next t ∧
      WritesOnly s t rd (BitVec.ofInt 32 (4 * s.pcWord + imm20.toNat * 4096)) (s.pcWord + 1))

/-! ### Fences and system instructions -/

/-- R240, R241: the fences, whatever their ignored fields hold (the spec's decision D15), only advance pc_word. -/
def Obligations.FencesOnlyAdvance : Prop :=
  ∀ (fm pred succ : BitVec 4) (imm : BitVec 12) (rs1 rd : Reg) (s : State),
    decode (fm ++ pred ++ succ ++ rs1 ++ 0b000#3 ++ rd ++ 0b0001111#7) = .ok (.fence fm pred succ rs1 rd) ∧
    (∃ t, exec (.fence fm pred succ rs1 rd) s = .next t ∧ MovesOnly s t (s.pcWord + 1)) ∧
    decode (imm ++ rs1 ++ 0b001#3 ++ rd ++ 0b0001111#7) = .ok (.fenceI imm rs1 rd) ∧
    (∃ t, exec (.fenceI imm rs1 rd) s = .next t ∧ MovesOnly s t (s.pcWord + 1))

/-- R260 to R266: EBREAK and the six CSR instructions only advance pc_word; rd keeps its value. That EBREAK accepts every rd and rs1
field is the spec's decision D11, that "CSRR*" means these six its decision D40 (assumption 12). -/
def Obligations.EbreakAndCsrOnlyAdvance : Prop :=
  ∀ (rd rs1 : Reg) (csr : BitVec 12) (uimm : BitVec 5) (s : State),
    (∃ t, exec (.ebreak rs1 rd) s = .next t ∧ MovesOnly s t (s.pcWord + 1)) ∧
    (∃ t, exec (.csrrw rd csr rs1) s = .next t ∧ MovesOnly s t (s.pcWord + 1)) ∧
    (∃ t, exec (.csrrs rd csr rs1) s = .next t ∧ MovesOnly s t (s.pcWord + 1)) ∧
    (∃ t, exec (.csrrc rd csr rs1) s = .next t ∧ MovesOnly s t (s.pcWord + 1)) ∧
    (∃ t, exec (.csrrwi rd csr uimm) s = .next t ∧ MovesOnly s t (s.pcWord + 1)) ∧
    (∃ t, exec (.csrrsi rd csr uimm) s = .next t ∧ MovesOnly s t (s.pcWord + 1)) ∧
    (∃ t, exec (.csrrci rd csr uimm) s = .next t ∧ MovesOnly s t (s.pcWord + 1)) ∧
    decode (0x001#12 ++ rs1 ++ 0b000#3 ++ rd ++ 0b1110011#7) = .ok (.ebreak rs1 rd) ∧
    decode (csr ++ rs1 ++ 0b001#3 ++ rd ++ 0b1110011#7) = .ok (.csrrw rd csr rs1) ∧
    decode (csr ++ rs1 ++ 0b010#3 ++ rd ++ 0b1110011#7) = .ok (.csrrs rd csr rs1) ∧
    decode (csr ++ rs1 ++ 0b011#3 ++ rd ++ 0b1110011#7) = .ok (.csrrc rd csr rs1) ∧
    decode (csr ++ uimm ++ 0b101#3 ++ rd ++ 0b1110011#7) = .ok (.csrrwi rd csr uimm) ∧
    decode (csr ++ uimm ++ 0b110#3 ++ rd ++ 0b1110011#7) = .ok (.csrrsi rd csr uimm) ∧
    decode (csr ++ uimm ++ 0b111#3 ++ rd ++ 0b1110011#7) = .ok (.csrrci rd csr uimm)

/-- R252, R256 and the encoding of R251: services 1 and 11 hand x11 to the sink, as a signed integer and as a whole register (the spec's
decision D18); any rd and rs1 fields are accepted (its decision D11). -/
def Obligations.EcallPrintsIntegerAndCharacter : Prop :=
  ∀ (rs1 rd : Reg) (s : State),
    decode (0x000#12 ++ rs1 ++ 0b000#3 ++ rd ++ 0b1110011#7) = .ok (.ecall rs1 rd) ∧
    (s.readReg 10#5 = 1#32 →
      ∃ t, exec (.ecall rs1 rd) s = .next t ∧ EmitsOnly s t (.printInt (s.readReg 11#5).toInt)) ∧
    (s.readReg 10#5 = 11#32 →
      ∃ t, exec (.ecall rs1 rd) s = .next t ∧ EmitsOnly s t (.printChar (s.readReg 11#5)))

/-- R253: service 4 emits the bytes from x11 on up to the first zero byte, as one event; when there is none in the memory it fails and
emits nothing (the spec's decision D19, assumption 10; what the failure leaves is D20, assumptions 4, 17). -/
def Obligations.EcallPrintsStringUpToZero : Prop :=
  ∀ (rs1 rd : Reg) (s : State) (p : Nat), s.ConfigInRange → s.readReg 10#5 = 4#32 → (s.readReg 11#5).toNat = p →
    (∀ n : Nat, p + n < s.cfg.memSize → (∀ i : Nat, i < n → s.byteAt (p + i) ≠ 0#8) → s.byteAt (p + n) = 0#8 →
      ∃ t, exec (.ecall rs1 rd) s = .next t ∧
        EmitsOnly s t (.printString ((List.range n).map fun i => s.byteAt (p + i)))) ∧
    ((∀ n : Nat, p + n < s.cfg.memSize → s.byteAt (p + n) ≠ 0#8) →
      ∃ t, exec (.ecall rs1 rd) s = .next t ∧ FailsWith s t .outOfBoundsMemoryAccess)

/-- R255, R257: services 10 and 17 halt with exit code 0 (the spec's decision D16) and x11; pc_word advances (its decision D17). -/
def Obligations.EcallExits : Prop :=
  ∀ (rs1 rd : Reg) (s : State),
    (s.readReg 10#5 = 10#32 → ∃ t, exec (.ecall rs1 rd) s = .next t ∧ ExitsOnly s t 0#32) ∧
    (s.readReg 10#5 = 17#32 → ∃ t, exec (.ecall rs1 rd) s = .next t ∧ ExitsOnly s t (s.readReg 11#5))

/-- R254, R258: service 9 does nothing; every code but the six is reported and ignored. That all 32 bits of x10 are compared, so that
0x10A is such a code, is the spec's decision D31 (assumption 10). -/
def Obligations.EcallReservedAndUnknownCodes : Prop :=
  ∀ (rs1 rd : Reg) (s : State),
    (s.readReg 10#5 = 9#32 → ∃ t, exec (.ecall rs1 rd) s = .next t ∧ MovesOnly s t (s.pcWord + 1)) ∧
    (s.readReg 10#5 ∉ [1#32, 4#32, 9#32, 10#32, 11#32, 17#32] →
      ∃ t, exec (.ecall rs1 rd) s = .next t ∧ ReportsOnly s t .unimplementedEnvironmentCall)

/-! ### The boundary -/

/-- R121: the register dump is 128 bytes; byte 4i + j is byte j of x[i], most significant first; x0 is dumped as 0. -/
def Obligations.RegisterDumpIsBigEndian : Prop :=
  ∀ s : State,
    s.registerDump.length = 128 ∧
    (∀ i j : Nat, i < 32 → j < 4 →
      s.registerDump[4 * i + j]? = some ((s.readReg (BitVec.ofNat 5 i)).extractLsb' (24 - 8 * j) 8)) ∧
    s.registerDump.take 4 = [0#8, 0#8, 0#8, 0#8]

/-- R66: word i of the program is the four file bytes from 4i on, most significant first. That an image whose length is no multiple of 4
gives no program is the model's reading of D33 (assumption 6). -/
def Obligations.ProgramImageIsBigEndian : Prop :=
  ∀ bytes : List Byte,
    (∀ ws : List Word, programOfImage bytes = some ws →
      bytes.length = 4 * ws.length ∧
      ∀ i : Nat, i < ws.length →
        ws[i]? = some (bytes.getD (4 * i) 0#8 ++ bytes.getD (4 * i + 1) 0#8 ++ bytes.getD (4 * i + 2) 0#8
          ++ bytes.getD (4 * i + 3) 0#8)) ∧
    ((∃ ws, programOfImage bytes = some ws) ↔ bytes.length % 4 = 0)
end

