-- ==== Sys2Proof/Laws/Encoding.lean ====
section
/-! SUPPORT. The encoding functions of 30_encoding.md R111 against the decoder's fields: each field of an encoded word is what was
placed there, and the fields of a word put together again give the word. -/

namespace Sys2Proof

/-! ### One placed field -/

theorem extract_or (a b : Word) (s l : Nat) :
    (a ||| b).extractLsb' s l = a.extractLsb' s l ||| b.extractLsb' s l := by
  apply BitVec.eq_of_getLsbD_eq
  intro i hi
  simp only [BitVec.getLsbD_extractLsb', BitVec.getLsbD_or, Bool.and_or_distrib_left]

/-- Bits at or above the place of a field are the field's own. -/
theorem extract_place {k : Nat} (v : BitVec k) {n s l : Nat} (hn : n ≤ s) (hs : s + l ≤ 32) (_hk : s < n + k) :
    (place v n).extractLsb' s l = v.extractLsb' (s - n) l := by
  apply BitVec.eq_of_getLsbD_eq
  intro i hi
  simp only [place, BitVec.getLsbD_extractLsb', BitVec.getLsbD_shiftLeft, BitVec.getLsbD_setWidth, hi, decide_true,
    Bool.true_and, show s + i < 32 by omega, show ¬ s + i < n by omega, show s + i - n < 32 by omega, decide_false,
    Bool.not_false]
  congr 1; omega

/-- Bits above or below a field are 0. -/
theorem extract_place_outside {k : Nat} (v : BitVec k) {n s l : Nat} (h : n + k ≤ s ∨ s + l ≤ n) :
    (place v n).extractLsb' s l = 0#l := by
  apply BitVec.eq_of_getLsbD_eq
  intro i hi
  simp only [place, BitVec.getLsbD_extractLsb', BitVec.getLsbD_shiftLeft, BitVec.getLsbD_setWidth, BitVec.getLsbD_zero]
  rcases h with h | h
  · simp [show v.getLsbD (s + i - n) = false from BitVec.getLsbD_of_ge _ _ (by omega)]
  · simp [show s + i < n by omega]

/-! ### The fields of an encoded word -/

@[simp] theorem opcodeField_encR (f7 : BitVec 7) (rs2 rs1 : Reg) (f3 : BitVec 3) (rd : Reg) (op : BitVec 7) :
    opcodeField (encR f7 rs2 rs1 f3 rd op) = op := by
  simp (disch := omega) [opcodeField, encR, extract_or, extract_place, extract_place_outside]

@[simp] theorem rdField_encR (f7 : BitVec 7) (rs2 rs1 : Reg) (f3 : BitVec 3) (rd : Reg) (op : BitVec 7) :
    rdField (encR f7 rs2 rs1 f3 rd op) = rd := by
  simp (disch := omega) [rdField, encR, extract_or, extract_place, extract_place_outside]

@[simp] theorem funct3Field_encR (f7 : BitVec 7) (rs2 rs1 : Reg) (f3 : BitVec 3) (rd : Reg) (op : BitVec 7) :
    funct3Field (encR f7 rs2 rs1 f3 rd op) = f3 := by
  simp (disch := omega) [funct3Field, encR, extract_or, extract_place, extract_place_outside]

@[simp] theorem rs1Field_encR (f7 : BitVec 7) (rs2 rs1 : Reg) (f3 : BitVec 3) (rd : Reg) (op : BitVec 7) :
    rs1Field (encR f7 rs2 rs1 f3 rd op) = rs1 := by
  simp (disch := omega) [rs1Field, encR, extract_or, extract_place, extract_place_outside]

@[simp] theorem rs2Field_encR (f7 : BitVec 7) (rs2 rs1 : Reg) (f3 : BitVec 3) (rd : Reg) (op : BitVec 7) :
    rs2Field (encR f7 rs2 rs1 f3 rd op) = rs2 := by
  simp (disch := omega) [rs2Field, encR, extract_or, extract_place, extract_place_outside]

@[simp] theorem funct7Field_encR (f7 : BitVec 7) (rs2 rs1 : Reg) (f3 : BitVec 3) (rd : Reg) (op : BitVec 7) :
    funct7Field (encR f7 rs2 rs1 f3 rd op) = f7 := by
  simp (disch := omega) [funct7Field, encR, extract_or, extract_place, extract_place_outside]

@[simp] theorem opcodeField_encI (imm : BitVec 12) (rs1 : Reg) (f3 : BitVec 3) (rd : Reg) (op : BitVec 7) :
    opcodeField (encI imm rs1 f3 rd op) = op := by
  simp (disch := omega) [opcodeField, encI, extract_or, extract_place, extract_place_outside]

@[simp] theorem rdField_encI (imm : BitVec 12) (rs1 : Reg) (f3 : BitVec 3) (rd : Reg) (op : BitVec 7) :
    rdField (encI imm rs1 f3 rd op) = rd := by
  simp (disch := omega) [rdField, encI, extract_or, extract_place, extract_place_outside]

@[simp] theorem funct3Field_encI (imm : BitVec 12) (rs1 : Reg) (f3 : BitVec 3) (rd : Reg) (op : BitVec 7) :
    funct3Field (encI imm rs1 f3 rd op) = f3 := by
  simp (disch := omega) [funct3Field, encI, extract_or, extract_place, extract_place_outside]

@[simp] theorem rs1Field_encI (imm : BitVec 12) (rs1 : Reg) (f3 : BitVec 3) (rd : Reg) (op : BitVec 7) :
    rs1Field (encI imm rs1 f3 rd op) = rs1 := by
  simp (disch := omega) [rs1Field, encI, extract_or, extract_place, extract_place_outside]

@[simp] theorem immFieldI_encI (imm : BitVec 12) (rs1 : Reg) (f3 : BitVec 3) (rd : Reg) (op : BitVec 7) :
    immFieldI (encI imm rs1 f3 rd op) = imm := by
  simp (disch := omega) [immFieldI, encI, extract_or, extract_place, extract_place_outside]

@[simp] theorem opcodeField_encS (imm : BitVec 12) (rs2 rs1 : Reg) (f3 : BitVec 3) (op : BitVec 7) :
    opcodeField (encS imm rs2 rs1 f3 op) = op := by
  simp (disch := omega) [opcodeField, encS, extract_or, extract_place, extract_place_outside]

@[simp] theorem funct3Field_encS (imm : BitVec 12) (rs2 rs1 : Reg) (f3 : BitVec 3) (op : BitVec 7) :
    funct3Field (encS imm rs2 rs1 f3 op) = f3 := by
  simp (disch := omega) [funct3Field, encS, extract_or, extract_place, extract_place_outside]

@[simp] theorem rs1Field_encS (imm : BitVec 12) (rs2 rs1 : Reg) (f3 : BitVec 3) (op : BitVec 7) :
    rs1Field (encS imm rs2 rs1 f3 op) = rs1 := by
  simp (disch := omega) [rs1Field, encS, extract_or, extract_place, extract_place_outside]

@[simp] theorem rs2Field_encS (imm : BitVec 12) (rs2 rs1 : Reg) (f3 : BitVec 3) (op : BitVec 7) :
    rs2Field (encS imm rs2 rs1 f3 op) = rs2 := by
  simp (disch := omega) [rs2Field, encS, extract_or, extract_place, extract_place_outside]

@[simp] theorem opcodeField_encB (imm : BitVec 13) (rs2 rs1 : Reg) (f3 : BitVec 3) (op : BitVec 7) :
    opcodeField (encB imm rs2 rs1 f3 op) = op := by
  simp (disch := omega) [opcodeField, encB, extract_or, extract_place, extract_place_outside]

@[simp] theorem funct3Field_encB (imm : BitVec 13) (rs2 rs1 : Reg) (f3 : BitVec 3) (op : BitVec 7) :
    funct3Field (encB imm rs2 rs1 f3 op) = f3 := by
  simp (disch := omega) [funct3Field, encB, extract_or, extract_place, extract_place_outside]

@[simp] theorem rs1Field_encB (imm : BitVec 13) (rs2 rs1 : Reg) (f3 : BitVec 3) (op : BitVec 7) :
    rs1Field (encB imm rs2 rs1 f3 op) = rs1 := by
  simp (disch := omega) [rs1Field, encB, extract_or, extract_place, extract_place_outside]

@[simp] theorem rs2Field_encB (imm : BitVec 13) (rs2 rs1 : Reg) (f3 : BitVec 3) (op : BitVec 7) :
    rs2Field (encB imm rs2 rs1 f3 op) = rs2 := by
  simp (disch := omega) [rs2Field, encB, extract_or, extract_place, extract_place_outside]

@[simp] theorem opcodeField_encU (imm20 : BitVec 20) (rd : Reg) (op : BitVec 7) :
    opcodeField (encU imm20 rd op) = op := by
  simp (disch := omega) [opcodeField, encU, extract_or, extract_place, extract_place_outside]

@[simp] theorem rdField_encU (imm20 : BitVec 20) (rd : Reg) (op : BitVec 7) :
    rdField (encU imm20 rd op) = rd := by
  simp (disch := omega) [rdField, encU, extract_or, extract_place, extract_place_outside]

@[simp] theorem immFieldU_encU (imm20 : BitVec 20) (rd : Reg) (op : BitVec 7) :
    immFieldU (encU imm20 rd op) = imm20 := by
  simp (disch := omega) [immFieldU, encU, extract_or, extract_place, extract_place_outside]

@[simp] theorem opcodeField_encJ (imm : BitVec 21) (rd : Reg) (op : BitVec 7) :
    opcodeField (encJ imm rd op) = op := by
  simp (disch := omega) [opcodeField, encJ, extract_or, extract_place, extract_place_outside]

@[simp] theorem rdField_encJ (imm : BitVec 21) (rd : Reg) (op : BitVec 7) :
    rdField (encJ imm rd op) = rd := by
  simp (disch := omega) [rdField, encJ, extract_or, extract_place, extract_place_outside]

/-- R88: the two pieces of an S immediate give it back. -/
@[simp] theorem immFieldS_encS (imm : BitVec 12) (rs2 rs1 : Reg) (f3 : BitVec 3) (op : BitVec 7) :
    immFieldS (encS imm rs2 rs1 f3 op) = imm := by
  have h : immFieldS (encS imm rs2 rs1 f3 op) = imm.extractLsb' 5 7 ++ imm.extractLsb' 0 5 := by
    simp (disch := omega) [immFieldS, encS, extract_or, extract_place, extract_place_outside]
  rw [h]
  apply BitVec.eq_of_getLsbD_eq
  intro i hi
  simp only [BitVec.getLsbD_append, BitVec.getLsbD_extractLsb']
  interval_cases i <;> simp

/-- R89: the four pieces of a branch offset give it back when its bit 0 is 0. -/
theorem immFieldB_encB {imm : BitVec 13} (rs2 rs1 : Reg) (f3 : BitVec 3) (op : BitVec 7) (h0 : imm.getLsbD 0 = false) :
    immFieldB (encB imm rs2 rs1 f3 op) = imm := by
  have h : immFieldB (encB imm rs2 rs1 f3 op)
      = imm.extractLsb' 12 1 ++ imm.extractLsb' 11 1 ++ imm.extractLsb' 5 6 ++ imm.extractLsb' 1 4 ++ 0#1 := by
    simp (disch := omega) [immFieldB, encB, extract_or, extract_place, extract_place_outside]
  rw [h]
  apply BitVec.eq_of_getLsbD_eq
  intro i hi
  simp only [BitVec.getLsbD_append, BitVec.getLsbD_extractLsb']
  interval_cases i <;> simp
  simpa using h0.symm

/-- R91: the four pieces of a JAL offset give it back when its bit 0 is 0. -/
theorem immFieldJ_encJ {imm : BitVec 21} (rd : Reg) (op : BitVec 7) (h0 : imm.getLsbD 0 = false) :
    immFieldJ (encJ imm rd op) = imm := by
  have h : immFieldJ (encJ imm rd op)
      = imm.extractLsb' 20 1 ++ imm.extractLsb' 12 8 ++ imm.extractLsb' 11 1 ++ imm.extractLsb' 1 10 ++ 0#1 := by
    simp (disch := omega) [immFieldJ, encJ, extract_or, extract_place, extract_place_outside]
  rw [h]
  apply BitVec.eq_of_getLsbD_eq
  intro i hi
  simp only [BitVec.getLsbD_append, BitVec.getLsbD_extractLsb']
  interval_cases i <;> simp
  simpa using h0.symm

/-- The fence sets come back out of the immediate bits they were placed in (R102). -/
theorem fence_fields (fm pred succ : BitVec 4) (rs1 : Reg) (f3 : BitVec 3) (rd : Reg) (op : BitVec 7) :
    (encI (fm ++ pred ++ succ) rs1 f3 rd op).extractLsb' 28 4 = fm ∧
      (encI (fm ++ pred ++ succ) rs1 f3 rd op).extractLsb' 24 4 = pred ∧
      (encI (fm ++ pred ++ succ) rs1 f3 rd op).extractLsb' 20 4 = succ := by
  refine ⟨?_, ?_, ?_⟩ <;>
    simp (disch := omega) only [encI, extract_or, extract_place, extract_place_outside] <;>
    apply BitVec.eq_of_getLsbD_eq <;> intro i hi <;>
    simp only [BitVec.getLsbD_append, BitVec.getLsbD_extractLsb', BitVec.getLsbD_or] <;> interval_cases i <;> simp

/-! ### A word is its fields put together -/

theorem encR_fields (w : Word) :
    encR (funct7Field w) (rs2Field w) (rs1Field w) (funct3Field w) (rdField w) (opcodeField w) = w := by
  apply BitVec.eq_of_getLsbD_eq
  intro i hi
  simp only [encR, place, funct7Field, rs2Field, rs1Field, funct3Field, rdField, opcodeField,
    BitVec.getLsbD_or, BitVec.getLsbD_shiftLeft, BitVec.getLsbD_setWidth, BitVec.getLsbD_extractLsb']
  interval_cases i <;> simp

theorem encI_fields (w : Word) :
    encI (immFieldI w) (rs1Field w) (funct3Field w) (rdField w) (opcodeField w) = w := by
  apply BitVec.eq_of_getLsbD_eq
  intro i hi
  simp only [encI, place, immFieldI, rs1Field, funct3Field, rdField, opcodeField,
    BitVec.getLsbD_or, BitVec.getLsbD_shiftLeft, BitVec.getLsbD_setWidth, BitVec.getLsbD_extractLsb']
  interval_cases i <;> simp

theorem encS_fields (w : Word) :
    encS (immFieldS w) (rs2Field w) (rs1Field w) (funct3Field w) (opcodeField w) = w := by
  apply BitVec.eq_of_getLsbD_eq
  intro i hi
  simp only [encS, place, immFieldS, rs2Field, rs1Field, funct3Field, opcodeField,
    BitVec.getLsbD_or, BitVec.getLsbD_shiftLeft, BitVec.getLsbD_setWidth, BitVec.getLsbD_extractLsb', BitVec.getLsbD_append]
  interval_cases i <;> simp

theorem encB_fields (w : Word) :
    encB (immFieldB w) (rs2Field w) (rs1Field w) (funct3Field w) (opcodeField w) = w := by
  apply BitVec.eq_of_getLsbD_eq
  intro i hi
  simp only [encB, place, immFieldB, rs2Field, rs1Field, funct3Field, opcodeField,
    BitVec.getLsbD_or, BitVec.getLsbD_shiftLeft, BitVec.getLsbD_setWidth, BitVec.getLsbD_extractLsb', BitVec.getLsbD_append]
  interval_cases i <;> simp

theorem encU_fields (w : Word) : encU (immFieldU w) (rdField w) (opcodeField w) = w := by
  apply BitVec.eq_of_getLsbD_eq
  intro i hi
  simp only [encU, place, immFieldU, rdField, opcodeField,
    BitVec.getLsbD_or, BitVec.getLsbD_shiftLeft, BitVec.getLsbD_setWidth, BitVec.getLsbD_extractLsb']
  interval_cases i <;> simp

theorem encJ_fields (w : Word) : encJ (immFieldJ w) (rdField w) (opcodeField w) = w := by
  apply BitVec.eq_of_getLsbD_eq
  intro i hi
  simp only [encJ, place, immFieldJ, rdField, opcodeField,
    BitVec.getLsbD_or, BitVec.getLsbD_shiftLeft, BitVec.getLsbD_setWidth, BitVec.getLsbD_extractLsb', BitVec.getLsbD_append]
  interval_cases i <;> simp

/-! ### The masks of the opcode table (R96 to R103) keep exactly the selecting fields -/

theorem and_opcode_funct3_funct7 (w : Word) :
    w &&& 0xFE00707F#32 = place (funct7Field w) 25 ||| place (funct3Field w) 12 ||| place (opcodeField w) 0 := by
  apply BitVec.eq_of_getLsbD_eq
  intro i hi
  simp only [place, funct7Field, funct3Field, opcodeField, BitVec.getLsbD_and, BitVec.getLsbD_or, BitVec.getLsbD_shiftLeft,
    BitVec.getLsbD_setWidth, BitVec.getLsbD_extractLsb']
  interval_cases i <;> simp

theorem and_opcode_funct3 (w : Word) :
    w &&& 0x0000707F#32 = place (funct3Field w) 12 ||| place (opcodeField w) 0 := by
  apply BitVec.eq_of_getLsbD_eq
  intro i hi
  simp only [place, funct3Field, opcodeField, BitVec.getLsbD_and, BitVec.getLsbD_or, BitVec.getLsbD_shiftLeft,
    BitVec.getLsbD_setWidth, BitVec.getLsbD_extractLsb']
  interval_cases i <;> simp

theorem and_opcode (w : Word) : w &&& 0x0000007F#32 = place (opcodeField w) 0 := by
  apply BitVec.eq_of_getLsbD_eq
  intro i hi
  simp only [place, opcodeField, BitVec.getLsbD_and, BitVec.getLsbD_shiftLeft, BitVec.getLsbD_setWidth,
    BitVec.getLsbD_extractLsb']
  interval_cases i <;> simp

theorem and_opcode_funct3_imm (w : Word) :
    w &&& 0xFFF0707F#32 = place (immFieldI w) 20 ||| place (funct3Field w) 12 ||| place (opcodeField w) 0 := by
  apply BitVec.eq_of_getLsbD_eq
  intro i hi
  simp only [place, immFieldI, funct3Field, opcodeField, BitVec.getLsbD_and, BitVec.getLsbD_or, BitVec.getLsbD_shiftLeft,
    BitVec.getLsbD_setWidth, BitVec.getLsbD_extractLsb']
  interval_cases i <;> simp

/-- One choice of `byFunct3` is taken, the one of the value of funct3. -/
theorem byFunct3_cases {α : Type} {f : BitVec 3} {c0 c1 c2 c3 c4 c5 c6 c7 r : α}
    (h : byFunct3 f c0 c1 c2 c3 c4 c5 c6 c7 = r) :
    (f = 0b000#3 ∧ c0 = r) ∨ (f = 0b001#3 ∧ c1 = r) ∨ (f = 0b010#3 ∧ c2 = r) ∨ (f = 0b011#3 ∧ c3 = r) ∨
      (f = 0b100#3 ∧ c4 = r) ∨ (f = 0b101#3 ∧ c5 = r) ∨ (f = 0b110#3 ∧ c6 = r) ∨ (f = 0b111#3 ∧ c7 = r) := by
  have all : ∀ f : BitVec 3, f = 0b000#3 ∨ f = 0b001#3 ∨ f = 0b010#3 ∨ f = 0b011#3 ∨ f = 0b100#3 ∨ f = 0b101#3 ∨
      f = 0b110#3 ∨ f = 0b111#3 := by decide
  rcases all f with rfl | rfl | rfl | rfl | rfl | rfl | rfl | rfl <;> simpa [byFunct3] using h

end Sys2Proof
end

