-- ==== Sys2Proof/Laws/State.lean ====
section
/-! SUPPORT. One lemma per field per update, true by rfl, so that no later proof unfolds a record update; then what the named
register, control and output operations of Ops.lean leave of each field. -/

namespace Sys2Proof.Machine

variable (s : State)

@[simp] theorem State.setRegs_cfg (r : Vector Word 32) : (s.setRegs r).cfg = s.cfg := rfl
@[simp] theorem State.setRegs_regs (r : Vector Word 32) : (s.setRegs r).regs = r := rfl
@[simp] theorem State.setRegs_pcWord (r : Vector Word 32) : (s.setRegs r).pcWord = s.pcWord := rfl
@[simp] theorem State.setRegs_mem (r : Vector Word 32) : (s.setRegs r).mem = s.mem := rfl
@[simp] theorem State.setRegs_status (r : Vector Word 32) : (s.setRegs r).status = s.status := rfl
@[simp] theorem State.setRegs_out (r : Vector Word 32) : (s.setRegs r).out = s.out := rfl
@[simp] theorem State.setRegs_result (r : Vector Word 32) : (s.setRegs r).result = s.result := rfl

@[simp] theorem State.setPc_cfg (p : Int) : (s.setPc p).cfg = s.cfg := rfl
@[simp] theorem State.setPc_regs (p : Int) : (s.setPc p).regs = s.regs := rfl
@[simp] theorem State.setPc_pcWord (p : Int) : (s.setPc p).pcWord = p := rfl
@[simp] theorem State.setPc_mem (p : Int) : (s.setPc p).mem = s.mem := rfl
@[simp] theorem State.setPc_status (p : Int) : (s.setPc p).status = s.status := rfl
@[simp] theorem State.setPc_out (p : Int) : (s.setPc p).out = s.out := rfl
@[simp] theorem State.setPc_result (p : Int) : (s.setPc p).result = s.result := rfl

@[simp] theorem State.setMem_cfg (m : Memory) : (s.setMem m).cfg = s.cfg := rfl
@[simp] theorem State.setMem_regs (m : Memory) : (s.setMem m).regs = s.regs := rfl
@[simp] theorem State.setMem_pcWord (m : Memory) : (s.setMem m).pcWord = s.pcWord := rfl
@[simp] theorem State.setMem_mem (m : Memory) : (s.setMem m).mem = m := rfl
@[simp] theorem State.setMem_status (m : Memory) : (s.setMem m).status = s.status := rfl
@[simp] theorem State.setMem_out (m : Memory) : (s.setMem m).out = s.out := rfl
@[simp] theorem State.setMem_result (m : Memory) : (s.setMem m).result = s.result := rfl

@[simp] theorem State.setStatus_cfg (st : Status) : (s.setStatus st).cfg = s.cfg := rfl
@[simp] theorem State.setStatus_regs (st : Status) : (s.setStatus st).regs = s.regs := rfl
@[simp] theorem State.setStatus_pcWord (st : Status) : (s.setStatus st).pcWord = s.pcWord := rfl
@[simp] theorem State.setStatus_mem (st : Status) : (s.setStatus st).mem = s.mem := rfl
@[simp] theorem State.setStatus_status (st : Status) : (s.setStatus st).status = st := rfl
@[simp] theorem State.setStatus_out (st : Status) : (s.setStatus st).out = s.out := rfl
@[simp] theorem State.setStatus_result (st : Status) : (s.setStatus st).result = s.result := rfl

@[simp] theorem State.setOut_cfg (o : List Event) : (s.setOut o).cfg = s.cfg := rfl
@[simp] theorem State.setOut_regs (o : List Event) : (s.setOut o).regs = s.regs := rfl
@[simp] theorem State.setOut_pcWord (o : List Event) : (s.setOut o).pcWord = s.pcWord := rfl
@[simp] theorem State.setOut_mem (o : List Event) : (s.setOut o).mem = s.mem := rfl
@[simp] theorem State.setOut_status (o : List Event) : (s.setOut o).status = s.status := rfl
@[simp] theorem State.setOut_out (o : List Event) : (s.setOut o).out = o := rfl
@[simp] theorem State.setOut_result (o : List Event) : (s.setOut o).result = s.result := rfl

@[simp] theorem State.setResult_cfg (r : Option StepResult) : (s.setResult r).cfg = s.cfg := rfl
@[simp] theorem State.setResult_regs (r : Option StepResult) : (s.setResult r).regs = s.regs := rfl
@[simp] theorem State.setResult_pcWord (r : Option StepResult) : (s.setResult r).pcWord = s.pcWord := rfl
@[simp] theorem State.setResult_mem (r : Option StepResult) : (s.setResult r).mem = s.mem := rfl
@[simp] theorem State.setResult_status (r : Option StepResult) : (s.setResult r).status = s.status := rfl
@[simp] theorem State.setResult_out (r : Option StepResult) : (s.setResult r).out = s.out := rfl
@[simp] theorem State.setResult_result (r : Option StepResult) : (s.setResult r).result = r := rfl

@[simp] theorem State.advance_cfg : (s.advance).cfg = s.cfg := rfl
@[simp] theorem State.advance_regs : (s.advance).regs = s.regs := rfl
@[simp] theorem State.advance_pcWord : (s.advance).pcWord = s.pcWord + 1 := rfl
@[simp] theorem State.advance_mem : (s.advance).mem = s.mem := rfl
@[simp] theorem State.advance_status : (s.advance).status = s.status := rfl
@[simp] theorem State.advance_out : (s.advance).out = s.out := rfl
@[simp] theorem State.advance_result : (s.advance).result = s.result := rfl

@[simp] theorem State.jumpTo_cfg (t : Int) : (s.jumpTo t).cfg = s.cfg := rfl
@[simp] theorem State.jumpTo_regs (t : Int) : (s.jumpTo t).regs = s.regs := rfl
@[simp] theorem State.jumpTo_pcWord (t : Int) : (s.jumpTo t).pcWord = t := rfl
@[simp] theorem State.jumpTo_mem (t : Int) : (s.jumpTo t).mem = s.mem := rfl
@[simp] theorem State.jumpTo_status (t : Int) : (s.jumpTo t).status = s.status := rfl
@[simp] theorem State.jumpTo_out (t : Int) : (s.jumpTo t).out = s.out := rfl
@[simp] theorem State.jumpTo_result (t : Int) : (s.jumpTo t).result = s.result := rfl

@[simp] theorem State.clampX0_cfg : (s.clampX0).cfg = s.cfg := rfl
@[simp] theorem State.clampX0_regs : (s.clampX0).regs = s.regs.set 0 0#32 := rfl
@[simp] theorem State.clampX0_pcWord : (s.clampX0).pcWord = s.pcWord := rfl
@[simp] theorem State.clampX0_mem : (s.clampX0).mem = s.mem := rfl
@[simp] theorem State.clampX0_status : (s.clampX0).status = s.status := rfl
@[simp] theorem State.clampX0_out : (s.clampX0).out = s.out := rfl
@[simp] theorem State.clampX0_result : (s.clampX0).result = s.result := rfl

@[simp] theorem State.emit_cfg (e : Event) : (s.emit e).cfg = s.cfg := rfl
@[simp] theorem State.emit_regs (e : Event) : (s.emit e).regs = s.regs := rfl
@[simp] theorem State.emit_pcWord (e : Event) : (s.emit e).pcWord = s.pcWord := rfl
@[simp] theorem State.emit_mem (e : Event) : (s.emit e).mem = s.mem := rfl
@[simp] theorem State.emit_status (e : Event) : (s.emit e).status = s.status := rfl
@[simp] theorem State.emit_out (e : Event) : (s.emit e).out = s.out ++ [e] := rfl
@[simp] theorem State.emit_result (e : Event) : (s.emit e).result = s.result := rfl

@[simp] theorem State.report_cfg (k : ErrorKind) : (s.report k).cfg = s.cfg := rfl
@[simp] theorem State.report_regs (k : ErrorKind) : (s.report k).regs = s.regs := rfl
@[simp] theorem State.report_pcWord (k : ErrorKind) : (s.report k).pcWord = s.pcWord := rfl
@[simp] theorem State.report_mem (k : ErrorKind) : (s.report k).mem = s.mem := rfl
@[simp] theorem State.report_status (k : ErrorKind) : (s.report k).status = s.status := rfl
@[simp] theorem State.report_out (k : ErrorKind) : (s.report k).out = s.out := rfl
@[simp] theorem State.report_result (k : ErrorKind) : (s.report k).result = some (.report k s.pcWord) := rfl

@[simp] theorem State.raise_cfg (k : ErrorKind) : (s.raise k).cfg = s.cfg := rfl
@[simp] theorem State.raise_regs (k : ErrorKind) : (s.raise k).regs = s.regs := rfl
@[simp] theorem State.raise_pcWord (k : ErrorKind) : (s.raise k).pcWord = s.pcWord := rfl
@[simp] theorem State.raise_mem (k : ErrorKind) : (s.raise k).mem = s.mem := rfl
@[simp] theorem State.raise_status (k : ErrorKind) : (s.raise k).status = .faulted k s.pcWord := rfl
@[simp] theorem State.raise_out (k : ErrorKind) : (s.raise k).out = s.out := rfl
@[simp] theorem State.raise_result (k : ErrorKind) : (s.raise k).result = some (.fatal k s.pcWord) := rfl

@[simp] theorem State.halt_cfg (c : Word) : (s.halt c).cfg = s.cfg := rfl
@[simp] theorem State.halt_regs (c : Word) : (s.halt c).regs = s.regs := rfl
@[simp] theorem State.halt_pcWord (c : Word) : (s.halt c).pcWord = s.pcWord := rfl
@[simp] theorem State.halt_mem (c : Word) : (s.halt c).mem = s.mem := rfl
@[simp] theorem State.halt_status (c : Word) : (s.halt c).status = .halted (some c) := rfl
@[simp] theorem State.halt_out (c : Word) : (s.halt c).out = s.out := rfl
@[simp] theorem State.halt_result (c : Word) : (s.halt c).result = some (.exited c) := rfl

@[simp] theorem State.stopped_cfg : (s.stopped).cfg = s.cfg := rfl
@[simp] theorem State.stopped_regs : (s.stopped).regs = s.regs := rfl
@[simp] theorem State.stopped_pcWord : (s.stopped).pcWord = s.pcWord := rfl
@[simp] theorem State.stopped_mem : (s.stopped).mem = s.mem := rfl
@[simp] theorem State.stopped_status : (s.stopped).status = s.status := rfl
@[simp] theorem State.stopped_out : (s.stopped).out = s.out := rfl
@[simp] theorem State.stopped_result : (s.stopped).result = some .stopped := rfl

@[simp] theorem State.runOffEnd_cfg : (s.runOffEnd).cfg = s.cfg := rfl
@[simp] theorem State.runOffEnd_regs : (s.runOffEnd).regs = s.regs := rfl
@[simp] theorem State.runOffEnd_pcWord : (s.runOffEnd).pcWord = s.pcWord := rfl
@[simp] theorem State.runOffEnd_mem : (s.runOffEnd).mem = s.mem := rfl
@[simp] theorem State.runOffEnd_status : (s.runOffEnd).status = .halted none := rfl
@[simp] theorem State.runOffEnd_out : (s.runOffEnd).out = s.out := rfl
@[simp] theorem State.runOffEnd_result : (s.runOffEnd).result = some .ended := rfl

@[simp] theorem State.beginHandler_cfg : (s.beginHandler).cfg = s.cfg := rfl
@[simp] theorem State.beginHandler_regs : (s.beginHandler).regs = s.regs := rfl
@[simp] theorem State.beginHandler_pcWord : (s.beginHandler).pcWord = s.pcWord := rfl
@[simp] theorem State.beginHandler_mem : (s.beginHandler).mem = s.mem := rfl
@[simp] theorem State.beginHandler_status : (s.beginHandler).status = s.status := rfl
@[simp] theorem State.beginHandler_out : (s.beginHandler).out = s.out := rfl
@[simp] theorem State.beginHandler_result : (s.beginHandler).result = some .ok := rfl

@[simp] theorem State.writeReg_cfg (rd : Reg) (v : Word) : (s.writeReg rd v).cfg = s.cfg := by unfold State.writeReg; split <;> rfl
@[simp] theorem State.writeReg_pcWord (rd : Reg) (v : Word) : (s.writeReg rd v).pcWord = s.pcWord := by unfold State.writeReg; split <;> rfl
@[simp] theorem State.writeReg_mem (rd : Reg) (v : Word) : (s.writeReg rd v).mem = s.mem := by unfold State.writeReg; split <;> rfl
@[simp] theorem State.writeReg_status (rd : Reg) (v : Word) : (s.writeReg rd v).status = s.status := by unfold State.writeReg; split <;> rfl
@[simp] theorem State.writeReg_out (rd : Reg) (v : Word) : (s.writeReg rd v).out = s.out := by unfold State.writeReg; split <;> rfl
@[simp] theorem State.writeReg_result (rd : Reg) (v : Word) : (s.writeReg rd v).result = s.result := by unfold State.writeReg; split <;> rfl

/-- A byte is read from memory alone. -/
theorem byteAt_of_mem {s t : State} (h : t.mem = s.mem) (a : Nat) : t.byteAt a = s.byteAt a := by
  simp [State.byteAt, h]

/-- A register is read from the register file alone. -/
theorem readReg_of_regs {s t : State} (h : t.regs = s.regs) (r : Reg) : t.readReg r = s.readReg r := by
  simp [State.readReg, h]

end Sys2Proof.Machine
end

