-- ==== Sys2Proof/Laws/Memory.lean ====
section
/-! SUPPORT. Data memory: a read after a write, the canonical form and the bounds of what is listed are kept by every write, equal
canonical memories read equal everywhere and only they do, and the little-endian accesses byte by byte. -/

namespace Sys2Proof.Machine

/-- Below the least address allowed nothing is listed. -/
theorem Memory.read_below {m : Memory} {lo k : Nat} (h : wfFrom lo m = true) (hk : k < lo) : m.read k = unlisted := by
  induction m generalizing lo with
  | nil => rfl
  | cons c m ih =>
    obtain ⟨b, u⟩ := c
    simp only [wfFrom, Bool.and_eq_true, decide_eq_true_eq] at h
    have : b ≠ k := by omega
    simp only [read, this, if_false]
    exact ih h.2 (by omega)

/-- A read after a write of one byte. -/
theorem Memory.read_write (m : Memory) (a : Nat) (v : Byte) (k : Nat) (lo : Nat) (h : wfFrom lo m = true) :
    (m.write a v).read k = if k = a then v else m.read k := by
  induction m generalizing lo with
  | nil =>
    by_cases hv : v = unlisted <;> by_cases hk : k = a <;> simp [write, read, hv, hk, eq_comm (a := a)]
  | cons c m ih =>
    obtain ⟨b, u⟩ := c
    simp only [wfFrom, Bool.and_eq_true, decide_eq_true_eq] at h
    obtain ⟨⟨hlo, hu⟩, hm⟩ := h
    have hrest : ∀ k, k ≤ b → read m k = unlisted := fun k hk => read_below hm (by omega)
    simp only [write]
    rcases Nat.lt_trichotomy a b with hab | hab | hab
    · by_cases hv : v = unlisted
      · by_cases hk : k = a
        · simp [hab, hv, hk, read, show b ≠ a by omega, hrest a (by omega)]
        · simp [hab, hv, hk]
      · by_cases hk : k = a
        · simp [hab, hv, hk, read]
        · simp [hab, hv, hk, read, Ne.symm hk]
    · subst hab
      by_cases hv : v = unlisted
      · by_cases hk : k = a
        · simp [hv, hk, hrest a (by omega)]
        · simp [hv, hk, read, Ne.symm hk]
      · by_cases hk : k = a
        · simp [hv, hk, read]
        · simp [hv, hk, read, Ne.symm hk]
    · have h1 : ¬ a < b := by omega
      have h2 : ¬ a = b := by omega
      simp only [h1, h2, if_false, read]
      by_cases hk : b = k
      · simp [hk, show ¬ k = a by omega]
      · simp [hk, ih _ hm]

/-- A write keeps the addresses rising and lists no byte that an unlisted address reads as. -/
theorem Memory.wfFrom_write {m : Memory} {lo a : Nat} (v : Byte) (h : wfFrom lo m = true) (ha : lo ≤ a) :
    wfFrom lo (m.write a v) = true := by
  induction m generalizing lo with
  | nil => by_cases hv : v = unlisted <;> simp [write, hv, wfFrom, ha]
  | cons c m ih =>
    obtain ⟨b, u⟩ := c
    simp only [wfFrom, Bool.and_eq_true, decide_eq_true_eq] at h
    obtain ⟨⟨hlo, hu⟩, hm⟩ := h
    simp only [write]
    rcases Nat.lt_trichotomy a b with hab | hab | hab
    · by_cases hv : v = unlisted
      · simp [hab, hv, wfFrom, hlo, hu, hm]
      · simp [hab, hv, wfFrom, ha, hu, hm]
    · subst hab
      by_cases hv : v = unlisted
      · simp only [Nat.lt_irrefl, if_false, hv, if_true]
        cases m with
        | nil => rfl
        | cons c' m' =>
          simp only [wfFrom, Bool.and_eq_true, decide_eq_true_eq] at hm ⊢
          exact ⟨⟨by omega, hm.1.2⟩, hm.2⟩
      · simp [hv, wfFrom, ha, hm]
    · have h1 : ¬ a < b := by omega
      have h2 : ¬ a = b := by omega
      simp only [h1, h2, if_false, wfFrom, Bool.and_eq_true, decide_eq_true_eq]
      exact ⟨⟨hlo, hu⟩, ih hm (by omega)⟩

/-- R51, R52 rest on it: a read after a write in a canonical memory. -/
theorem Memory.read_write_of_wf {m : Memory} (h : m.wf = true) (a k : Nat) (v : Byte) :
    (m.write a v).read k = if k = a then v else m.read k := read_write m a v k 0 h

/-- Every write keeps the canonical form. -/
theorem Memory.wf_write {m : Memory} (h : m.wf = true) (a : Nat) (v : Byte) : (m.write a v).wf = true :=
  wfFrom_write v h (Nat.zero_le a)

/-- A write below `size` lists nothing at or above it. -/
theorem Memory.below_write {m : Memory} {size a : Nat} (v : Byte) (h : m.below size = true) (ha : a < size) :
    (m.write a v).below size = true := by
  induction m with
  | nil => by_cases hv : v = unlisted <;> simp [write, hv, below, ha]
  | cons c m ih =>
    obtain ⟨b, u⟩ := c
    simp only [below, List.all_cons, Bool.and_eq_true, decide_eq_true_eq] at h ih
    simp only [write]
    split
    · split <;> simp [below, h.1, ha] <;> simpa using h.2
    · split
      · split <;> simp [below, ha] <;> simpa using h.2
      · simp only [below, List.all_cons, Bool.and_eq_true, decide_eq_true_eq]
        exact ⟨h.1, ih h.2⟩

/-- Two canonical memories that read alike everywhere are the same list. -/
theorem Memory.ext_of_read {m n : Memory} {lo : Nat} (hm : wfFrom lo m = true) (hn : wfFrom lo n = true)
    (h : ∀ a, m.read a = n.read a) : m = n := by
  induction m generalizing n lo with
  | nil =>
    cases n with
    | nil => rfl
    | cons c n =>
      obtain ⟨b, u⟩ := c
      simp only [wfFrom, Bool.and_eq_true, decide_eq_true_eq] at hn
      have := h b
      simp only [read, if_true] at this
      exact absurd this.symm hn.1.2
  | cons c m ih =>
    obtain ⟨b, u⟩ := c
    have hm' := hm
    simp only [wfFrom, Bool.and_eq_true, decide_eq_true_eq] at hm'
    cases n with
    | nil =>
      have := h b
      simp only [read, if_true] at this
      exact absurd this hm'.1.2
    | cons c' n =>
      obtain ⟨b', u'⟩ := c'
      have hn' := hn
      simp only [wfFrom, Bool.and_eq_true, decide_eq_true_eq] at hn'
      have hb : b = b' := by
        rcases Nat.lt_trichotomy b b' with hlt | he | hlt
        · have := h b
          simp only [read, if_true, show ¬ b' = b by omega, if_false] at this
          rw [read_below hn'.2 (by omega)] at this
          exact absurd this hm'.1.2
        · exact he
        · have := h b'
          simp only [read, if_true, show ¬ b = b' by omega, if_false] at this
          rw [read_below hm'.2 (by omega)] at this
          exact absurd this.symm hn'.1.2
      subst hb
      have hu : u = u' := by simpa [read] using h b
      subst hu
      have : m = n := by
        refine ih hm'.2 hn'.2 fun a => ?_
        by_cases ha : b = a
        · subst ha
          rw [read_below hm'.2 (by omega), read_below hn'.2 (by omega)]
        · simpa [read, ha] using h a
      rw [this]

/-! ### Little-endian accesses -/

/-- R52: a write of n bytes keeps the canonical form. -/
theorem Memory.wf_writeLE {m : Memory} (h : m.wf = true) (a n : Nat) (v : Word) : (m.writeLE a n v).wf = true := by
  induction n generalizing m a v with
  | zero => exact h
  | succ n ih => exact ih (wf_write h a _) (a + 1) (v >>> 8)

/-- R52 with R53: an in-bounds write of n bytes lists nothing outside the memory. -/
theorem Memory.below_writeLE {m : Memory} {size : Nat} (h : m.below size = true) (a n : Nat) (v : Word) (hb : a + n ≤ size) :
    (m.writeLE a n v).below size = true := by
  induction n generalizing m a v with
  | zero => exact h
  | succ n ih => exact ih (below_write _ h (by omega)) (a + 1) (v >>> 8) (by omega)

/-- R52: no other byte changes. -/
theorem Memory.read_writeLE_outside {m : Memory} (h : m.wf = true) (a n : Nat) (v : Word) {k : Nat} (hk : k < a ∨ a + n ≤ k) :
    (m.writeLE a n v).read k = m.read k := by
  induction n generalizing m a v with
  | zero => rfl
  | succ n ih =>
    rw [writeLE, ih (wf_write h a _) (a + 1) (v >>> 8) (by omega), read_write_of_wf h]
    simp [show k ≠ a by omega]

/-- R52: the byte at a + i becomes bits 8i+7 to 8i of the value. -/
theorem Memory.read_writeLE_inside {m : Memory} (h : m.wf = true) (a n : Nat) (v : Word) {i : Nat} (hi : i < n) :
    (m.writeLE a n v).read (a + i) = v.extractLsb' (8 * i) 8 := by
  induction n generalizing m a v i with
  | zero => omega
  | succ n ih =>
    rw [writeLE]
    cases i with
    | zero =>
      rw [read_writeLE_outside (wf_write h a _) (a + 1) n (v >>> 8) (by omega), read_write_of_wf h]
      simp [BitVec.setWidth_eq_extractLsb']
    | succ i =>
      rw [show a + (i + 1) = a + 1 + i by omega, ih (wf_write h a _) (a + 1) (v >>> 8) (by omega)]
      apply BitVec.eq_of_getLsbD_eq
      intro j hj
      simp only [BitVec.getLsbD_extractLsb', BitVec.getLsbD_ushiftRight, hj, decide_true, Bool.true_and]
      congr 1; omega

/-- R51: bit j of byte i of a little-endian read. -/
theorem Memory.getLsbD_readLE (m : Memory) (a n j : Nat) :
    (m.readLE a n).getLsbD j = (decide (j < 32) && decide (j / 8 < n) && (m.read (a + j / 8)).getLsbD (j % 8)) := by
  induction n generalizing a j with
  | zero => simp [readLE]
  | succ n ih =>
    simp only [readLE, BitVec.getLsbD_or, BitVec.getLsbD_setWidth, BitVec.getLsbD_shiftLeft, ih]
    by_cases hj : j < 8
    · have : j / 8 = 0 := by omega
      simp [hj, this, Nat.mod_eq_of_lt hj]
    · have h1 : (j - 8) / 8 + 1 = j / 8 := by omega
      have h2 : (j - 8) % 8 = j % 8 := by omega
      have h3 : a + 1 + (j - 8) / 8 = a + j / 8 := by omega
      have h4 : (m.read a).getLsbD j = false := BitVec.getLsbD_of_ge _ _ (by omega)
      have h5 : ((j - 8) / 8 < n) ↔ (j / 8 < n + 1) := by omega
      simp only [hj, h2, h3, h4, h5, Bool.and_false, Bool.false_or, decide_false, Bool.not_false, Bool.and_true]
      by_cases h32 : j < 32
      · simp [h32, show j - 8 < 32 by omega]
      · simp [h32]

/-- R58: a byte of the value a little-endian read gives is the byte of memory at its place. -/
theorem Memory.extract_readLE (m : Memory) (a n i : Nat) (hi : i < n) (h4 : n ≤ 4) :
    (m.readLE a n).extractLsb' (8 * i) 8 = m.read (a + i) := by
  apply BitVec.eq_of_getLsbD_eq
  intro j hj
  have h1 : (8 * i + j) / 8 = i := by omega
  have h2 : (8 * i + j) % 8 = j := by omega
  simp only [BitVec.getLsbD_extractLsb', getLsbD_readLE, hj, h1, h2, hi, show 8 * i + j < 32 by omega, decide_true,
    Bool.true_and]

/-- Two memories that read alike give the same little-endian values. -/
theorem Memory.readLE_congr {m m' : Memory} {a n : Nat} (h : ∀ i, i < n → m.read (a + i) = m'.read (a + i)) :
    m.readLE a n = m'.readLE a n := by
  apply BitVec.eq_of_getLsbD_eq
  intro j hj
  simp only [getLsbD_readLE]
  by_cases hn : j / 8 < n
  · rw [h _ hn]
  · simp [hn]

end Sys2Proof.Machine
end

