-- ==== Sys2Proof/Laws/Registers.lean ====
section
/-! SUPPORT. The register file (10_state.md R22): what a read gives after a write and after the clamp, and that x0 reads 0. -/

namespace Sys2Proof.Machine

variable (s : State)

@[simp] theorem readReg_zero : s.readReg 0#5 = 0#32 := rfl

/-- Two register numbers are equal exactly when their values are. -/
theorem reg_toNat_eq_iff {r q : Reg} : r.toNat = q.toNat ↔ r = q := BitVec.toNat_inj

/-- R22: a read after a write. -/
theorem readReg_writeReg (rd r : Reg) (v : Word) :
    (s.writeReg rd v).readReg r = if r = rd ∧ rd ≠ 0#5 then v else s.readReg r := by
  unfold State.writeReg State.readReg
  by_cases h0 : rd = 0#5
  · subst h0; simp
  · by_cases hr : r = rd
    · subst hr; simp [h0]
    · have hn : rd.toNat ≠ r.toNat := fun h => hr (reg_toNat_eq_iff.mp h).symm
      simp only [if_neg h0, hr, false_and, if_false]
      split
      · rfl
      · simp [Vector.getElem_set_ne, hn]

@[simp] theorem readReg_writeReg_self (rd : Reg) (v : Word) :
    (s.writeReg rd v).readReg rd = if rd = 0#5 then 0#32 else v := by
  rw [readReg_writeReg]
  by_cases h : rd = 0#5 <;> simp [h]

@[simp] theorem readReg_writeReg_ne {rd r : Reg} (v : Word) (h : r ≠ rd) :
    (s.writeReg rd v).readReg r = s.readReg r := by
  rw [readReg_writeReg]; simp [h]

/-- R22, R107: a write to x0 changes nothing. -/
@[simp] theorem writeReg_zero (v : Word) : s.writeReg 0#5 v = s := rfl

/-- R127: the clamp is seen by no read. -/
@[simp] theorem readReg_clampX0 (r : Reg) : s.clampX0.readReg r = s.readReg r := by
  unfold State.readReg
  split
  · rfl
  · rename_i h
    have hn : (0 : Nat) ≠ r.toNat := fun e => h (reg_toNat_eq_iff.mp e.symm)
    simp [Vector.getElem_set_ne, hn]

/-- The stored value of x0 is 0 after the clamp (R127). -/
@[simp] theorem clampX0_stored : s.clampX0.regs[0] = 0#32 := by simp [State.clampX0]

/-- No write reaches the stored value of x0 (R22, D28). -/
@[simp] theorem writeReg_stored (rd : Reg) (v : Word) : (s.writeReg rd v).regs[0] = s.regs[0] := by
  unfold State.writeReg
  split
  · rfl
  · rename_i h
    have hn : rd.toNat ≠ 0 := fun e => h (reg_toNat_eq_iff.mp e)
    simp [Vector.getElem_set_ne, hn]

/-- The clamp changes nothing where the stored value is 0 already (R328). -/
theorem clampX0_of_stored (h : s.regs[0] = 0#32) : s.clampX0 = s := by
  have : s.regs.set 0 0#32 = s.regs := by
    apply Vector.ext
    intro i hi
    by_cases h0 : i = 0
    · subst h0; simp [h]
    · rw [Vector.getElem_set_ne _ _ (by omega)]
  show s.setRegs _ = s
  rw [this]; rfl

@[simp] theorem readReg_setPc (p : Int) (r : Reg) : (s.setPc p).readReg r = s.readReg r := rfl
@[simp] theorem readReg_setMem (m : Memory) (r : Reg) : (s.setMem m).readReg r = s.readReg r := rfl
@[simp] theorem readReg_setStatus (st : Status) (r : Reg) : (s.setStatus st).readReg r = s.readReg r := rfl
@[simp] theorem readReg_setOut (o : List Event) (r : Reg) : (s.setOut o).readReg r = s.readReg r := rfl
@[simp] theorem readReg_setResult (x : Option StepResult) (r : Reg) : (s.setResult x).readReg r = s.readReg r := rfl
@[simp] theorem readReg_advance (r : Reg) : s.advance.readReg r = s.readReg r := rfl
@[simp] theorem readReg_jumpTo (t : Int) (r : Reg) : (s.jumpTo t).readReg r = s.readReg r := rfl
@[simp] theorem readReg_emit (e : Event) (r : Reg) : (s.emit e).readReg r = s.readReg r := rfl
@[simp] theorem readReg_report (k : ErrorKind) (r : Reg) : (s.report k).readReg r = s.readReg r := rfl
@[simp] theorem readReg_raise (k : ErrorKind) (r : Reg) : (s.raise k).readReg r = s.readReg r := rfl
@[simp] theorem readReg_halt (c : Word) (r : Reg) : (s.halt c).readReg r = s.readReg r := rfl
@[simp] theorem readReg_beginHandler (r : Reg) : s.beginHandler.readReg r = s.readReg r := rfl

/-- The registers right after a reset: SP_INIT in x2, 0 in every other (R39). -/
theorem readReg_resetWith (c : Config) (r : Reg) :
    (State.resetWith c).readReg r = if r = 2#5 then c.spInit else 0#32 := by
  unfold State.readReg State.resetWith
  by_cases h2 : r = 2#5
  · subst h2; simp
  · have hn : (2 : Nat) ≠ r.toNat := fun e => h2 (reg_toNat_eq_iff.mp e.symm)
    simp [h2, Vector.getElem_set_ne, hn]

end Sys2Proof.Machine
end

