-- ==== Sys2Proof/Laws/Exec.lean ====
section
/-! SUPPORT. What the shared operations do, said once, and the inversion of `exec` and of `step`: every next state has one of the
shapes named here, so that an invariant is a case analysis over them. -/

namespace Sys2Proof.Machine

variable (s : State)

/-! ### The shared operations -/

/-- R150, R170: one register written, pc_word + 1. -/
theorem writeResult_writesOnly (rd : Reg) (v : Word) : WritesOnly s (s.writeResult rd v) rd v (s.pcWord + 1) := by
  refine ⟨by simp [State.writeResult], fun r hr => by simp [State.writeResult, hr], by simp [State.writeResult],
    fun a => ?_, ?_⟩
  · exact byteAt_of_mem (by simp [State.writeResult]) a
  · simp [SameControl, State.writeResult]

/-- R220: the link written, pc_word set. -/
theorem link_writesOnly (rd : Reg) (v : Word) (p : Int) : WritesOnly s ((s.writeReg rd v).jumpTo p) rd v p := by
  refine ⟨by simp, fun r hr => by simp [hr], by simp, fun a => ?_, ?_⟩
  · exact byteAt_of_mem (by simp) a
  · simp [SameControl]

/-- A no-op moves pc_word and nothing else (R13). -/
theorem advance_movesOnly : MovesOnly s s.advance (s.pcWord + 1) :=
  ⟨fun _ => rfl, rfl, fun _ => rfl, rfl, rfl, rfl, rfl⟩

/-- R26 (b). -/
theorem jumpTo_movesOnly (p : Int) : MovesOnly s (s.jumpTo p) p :=
  ⟨fun _ => rfl, rfl, fun _ => rfl, rfl, rfl, rfl, rfl⟩

/-- R210. -/
theorem branchOn_movesOnly (taken : Bool) (offset : BitVec 13) :
    MovesOnly s (s.branchOn taken offset) (if taken then s.pcWord + sdiv4 (sext13 offset) else s.pcWord + 1) := by
  cases taken
  · exact advance_movesOnly s
  · exact jumpTo_movesOnly s _

/-- R284. -/
theorem raise_failsWith (k : ErrorKind) : FailsWith s (s.raise k) k :=
  ⟨rfl, rfl, fun _ => rfl, fun _ => rfl, rfl, rfl, rfl⟩

/-- R51: in bounds a read answers the little-endian value. -/
theorem memRead_inBounds {addr : Word} {n : Nat} (h : s.InBounds addr n) :
    s.memRead addr n = some (s.mem.readLE addr.toNat n) := if_pos h

/-- R53: out of bounds a read answers none. -/
theorem memRead_outOfBounds {addr : Word} {n : Nat} (h : ¬ s.InBounds addr n) : s.memRead addr n = none := if_neg h

/-- R190: a load in bounds. -/
theorem loadInto_inBounds (rd rs1 : Reg) (imm : BitVec 12) (n : Nat) (ext : Word → Word)
    (h : s.InBounds (s.effectiveAddress rs1 imm) n) :
    s.loadInto rd rs1 imm n ext = s.writeResult rd (ext (s.mem.readLE (s.effectiveAddress rs1 imm).toNat n)) := by
  simp [State.loadInto, memRead_inBounds s h]

/-- R190: a load out of bounds. -/
theorem loadInto_outOfBounds (rd rs1 : Reg) (imm : BitVec 12) (n : Nat) (ext : Word → Word)
    (h : ¬ s.InBounds (s.effectiveAddress rs1 imm) n) :
    s.loadInto rd rs1 imm n ext = s.raise .outOfBoundsMemoryAccess := by
  simp [State.loadInto, memRead_outOfBounds s h]

/-- R200: a store in bounds. -/
theorem storeFrom_inBounds (rs2 rs1 : Reg) (imm : BitVec 12) (n : Nat)
    (h : s.InBounds (s.effectiveAddress rs1 imm) n) :
    s.storeFrom rs2 rs1 imm n
      = (s.setMem (s.mem.writeLE (s.effectiveAddress rs1 imm).toNat n (s.readReg rs2))).advance := by
  simp [State.storeFrom, State.memWrite, h]

/-- R200: a store out of bounds. -/
theorem storeFrom_outOfBounds (rs2 rs1 : Reg) (imm : BitVec 12) (n : Nat)
    (h : ¬ s.InBounds (s.effectiveAddress rs1 imm) n) :
    s.storeFrom rs2 rs1 imm n = s.raise .outOfBoundsMemoryAccess := by
  simp [State.storeFrom, State.memWrite, h]

/-- R200: what an in-bounds store does to a canonical memory. -/
theorem storeFrom_storesOnly (rs2 rs1 : Reg) (imm : BitVec 12) (n : Nat) (hw : s.mem.wf = true)
    (h : s.InBounds (s.effectiveAddress rs1 imm) n) :
    StoresOnly s (s.storeFrom rs2 rs1 imm n) (s.effectiveAddress rs1 imm).toNat n (s.readReg rs2) := by
  rw [storeFrom_inBounds s rs2 rs1 imm n h]
  exact ⟨fun i hi => Memory.read_writeLE_inside hw _ n _ hi,
    fun b hb => Memory.read_writeLE_outside hw _ n _ hb, fun _ => rfl, rfl, rfl, rfl, rfl, rfl⟩

/-! ### sdiv4 -/

/-- R27: the quotient is at most a quarter of the value in size. -/
theorem sdiv4_bounds (v : Word) (b : Int) (hlo : -(4 * b) ≤ v.toInt) (hhi : v.toInt < 4 * b) :
    -b ≤ sdiv4 v ∧ sdiv4 v < b := by
  unfold sdiv4
  rcases Int.le_total 0 v.toInt with h | h
  · rw [Int.tdiv_eq_ediv_of_nonneg h]; omega
  · have : v.toInt.tdiv 4 = -((-v.toInt) / 4) := by
      rw [← Int.neg_neg v.toInt, Int.neg_tdiv, Int.neg_neg, Int.tdiv_eq_ediv_of_nonneg (by omega)]
    omega

theorem sdiv4_word (v : Word) : -(2 : Int) ^ 29 ≤ sdiv4 v ∧ sdiv4 v < 2 ^ 29 := by
  have h1 := BitVec.le_toInt v
  have h2 := BitVec.toInt_lt (x := v)
  exact sdiv4_bounds v (2 ^ 29) (by omega) (by omega)

theorem sdiv4_branch (offset : BitVec 13) :
    -(2 : Int) ^ 10 ≤ sdiv4 (sext13 offset) ∧ sdiv4 (sext13 offset) < 2 ^ 10 := by
  have h1 := BitVec.le_toInt offset
  have h2 := BitVec.toInt_lt (x := offset)
  have h3 : (sext13 offset).toInt = offset.toInt := BitVec.toInt_signExtend_of_le (by omega)
  exact sdiv4_bounds _ (2 ^ 10) (by omega) (by omega)

theorem sdiv4_jump (offset : BitVec 21) :
    -(2 : Int) ^ 18 ≤ sdiv4 (sext21 offset) ∧ sdiv4 (sext21 offset) < 2 ^ 18 := by
  have h1 := BitVec.le_toInt offset
  have h2 := BitVec.toInt_lt (x := offset)
  have h3 : (sext21 offset).toInt = offset.toInt := BitVec.toInt_signExtend_of_le (by omega)
  exact sdiv4_bounds _ (2 ^ 18) (by omega) (by omega)

/-! ### Inversion of exec -/

/-- The shapes of the state after an instruction. -/
inductive ExecEffect (i : Instr) (s : State) : State → Prop where
  /-- A load, a store or a string print went out of bounds. -/
  | raised : ExecEffect i s (s.raise .outOfBoundsMemoryAccess)
  /-- An arithmetic instruction, a load, LUI or AUIPC. -/
  | wrote (rd : Reg) (v : Word) (hd : i.destination = some rd) : ExecEffect i s (s.writeResult rd v)
  /-- A store of n > 0 bytes in bounds. -/
  | stored (addr v : Word) (n : Nat) (hn : i.storeWidth = n) (h0 : 0 < n) (hb : s.InBounds addr n) :
      ExecEffect i s (s.setMem (s.mem.writeLE addr.toNat n v)).advance
  /-- A branch taken, within 2^10 words. -/
  | branched (d : Int) (hc : i.controlTransfer = true) (hlo : -(2 : Int) ^ 10 ≤ d) (hhi : d < 2 ^ 10) :
      ExecEffect i s (s.jumpTo (s.pcWord + d))
  /-- JAL, within 2^18 words. -/
  | jumped (rd : Reg) (d : Int) (hc : i.controlTransfer = true) (hd : i.destination = some rd)
      (hlo : -(2 : Int) ^ 18 ≤ d) (hhi : d < 2 ^ 18) : ExecEffect i s ((s.writeReg rd s.link).jumpTo (s.pcWord + d))
  /-- JALR, to any index a word can name. -/
  | jumpedTo (rd : Reg) (p : Int) (hc : i.controlTransfer = true) (hd : i.destination = some rd)
      (hlo : -(2 : Int) ^ 29 ≤ p) (hhi : p < 2 ^ 29) : ExecEffect i s ((s.writeReg rd s.link).jumpTo p)
  /-- A no-op, or a branch not taken. -/
  | advanced : ExecEffect i s s.advance
  /-- ECALL services 1, 4, 11. -/
  | emitted (e : Event) : ExecEffect i s (s.emit e).advance
  /-- ECALL services 10, 17. -/
  | halted (c : Word) : ExecEffect i s (s.halt c).advance
  /-- ECALL with an unknown code. -/
  | reported : ExecEffect i s (s.report .unimplementedEnvironmentCall).advance

/-- A load either raises or writes its destination. -/
theorem loadInto_effect {i : Instr} (rd rs1 : Reg) (imm : BitVec 12) (n : Nat) (ext : Word → Word)
    (hd : i.destination = some rd) : ExecEffect i s (s.loadInto rd rs1 imm n ext) := by
  by_cases h : s.InBounds (s.effectiveAddress rs1 imm) n
  · rw [loadInto_inBounds s rd rs1 imm n ext h]; exact .wrote rd _ hd
  · rw [loadInto_outOfBounds s rd rs1 imm n ext h]; exact .raised

/-- A store either raises or writes its bytes. -/
theorem storeFrom_effect {i : Instr} (rs2 rs1 : Reg) (imm : BitVec 12) (n : Nat) (hn : i.storeWidth = n) (h0 : 0 < n) :
    ExecEffect i s (s.storeFrom rs2 rs1 imm n) := by
  by_cases h : s.InBounds (s.effectiveAddress rs1 imm) n
  · rw [storeFrom_inBounds s rs2 rs1 imm n h]; exact .stored _ _ n hn h0 h
  · rw [storeFrom_outOfBounds s rs2 rs1 imm n h]; exact .raised

/-- A branch either jumps or advances. -/
theorem branchOn_effect {i : Instr} (taken : Bool) (offset : BitVec 13) (hc : i.controlTransfer = true) :
    ExecEffect i s (s.branchOn taken offset) := by
  cases taken
  · exact .advanced
  · exact .branched _ hc (sdiv4_branch offset).1 (sdiv4_branch offset).2

/-- The environment call raises, emits, halts, reports or does nothing (R251). -/
theorem environmentCall_effect (i : Instr) : ExecEffect i s s.environmentCall := by
  unfold State.environmentCall
  simp only
  split
  · exact .emitted _
  split
  · unfold State.servicePrintString
    split
    · exact .raised
    · exact .emitted _
  split
  · exact .advanced
  split
  · exact .halted _
  split
  · exact .emitted _
  split
  · exact .halted _
  · exact .reported

/-- Every instruction answers a next state, of one of the shapes of `ExecEffect`. -/
theorem exec_effect (i : Instr) : ∃ t, exec i s = .next t ∧ ExecEffect i s t := by
  cases i <;> refine ⟨_, rfl, ?_⟩ <;>
    first
    | exact .advanced
    | exact .wrote _ _ rfl
    | exact loadInto_effect s _ _ _ _ _ rfl
    | exact storeFrom_effect s _ _ _ _ rfl (by decide)
    | exact branchOn_effect s _ _ rfl
    | exact environmentCall_effect s _
    | exact .jumped _ _ rfl rfl (sdiv4_jump _).1 (sdiv4_jump _).2
    | exact .jumpedTo _ _ rfl rfl (sdiv4_word _).1 (sdiv4_word _).2

/-- The same, from the answer. -/
theorem exec_next {i : Instr} {t : State} (h : exec i s = .next t) : ExecEffect i s t := by
  obtain ⟨t', h', e⟩ := exec_effect s i
  rw [h] at h'
  cases h'
  exact e

/-! ### Inversion of step -/

/-- R123 lines 0 to 2, the step that executes an instruction word. -/
theorem fetchOrEnd_ok {w : Word} (h : s.fetchOrEnd = .ok w) :
    s.status = .running ∧ 0 ≤ s.pcWord ∧ s.pcWord < s.cfg.prog.length ∧ s.cfg.prog[s.pcWord.toNat]? = some w := by
  unfold State.fetchOrEnd at h
  cases hs : s.status with
  | halted c => simp [hs] at h
  | faulted k i => simp [hs] at h
  | running =>
    simp only [hs] at h
    by_cases hp : s.pcWord < 0
    · simp [hp] at h
    · simp only [hp, if_false, State.fetch] at h
      cases hf : s.cfg.prog[s.pcWord.toNat]? with
      | none => simp [hf] at h
      | some w' =>
        simp only [hf] at h
        cases h
        obtain ⟨hl, _⟩ := List.getElem?_eq_some_iff.mp hf
        exact ⟨rfl, by omega, by omega, rfl⟩

/-- The same, the other way: what makes a step execute the word at pc_word. -/
theorem fetchOrEnd_of_fetch {w : Word} (hs : s.status = .running) (hp : 0 ≤ s.pcWord)
    (hf : s.cfg.prog[s.pcWord.toNat]? = some w) : s.fetchOrEnd = .ok w := by
  have : ¬ s.pcWord < 0 := by omega
  simp [State.fetchOrEnd, hs, State.fetch, this, hf]

/-- R123 lines 0 and 1, the steps that execute nothing. -/
theorem fetchOrEnd_error {t : State} (h : s.fetchOrEnd = .error t) :
    (s.status ≠ .running ∧ t = s.stopped) ∨
      (s.status = .running ∧ s.pcWord < 0 ∧ t = s.raise .pcOutOfRange) ∨
      (s.status = .running ∧ (s.cfg.prog.length : Int) ≤ s.pcWord ∧ t = s.runOffEnd) := by
  unfold State.fetchOrEnd at h
  cases hs : s.status with
  | halted c => simp only [hs] at h; cases h; exact .inl ⟨by simp, rfl⟩
  | faulted k i => simp only [hs] at h; cases h; exact .inl ⟨by simp, rfl⟩
  | running =>
    simp only [hs] at h
    by_cases hp : s.pcWord < 0
    · simp only [hp, if_true] at h; cases h; exact .inr (.inl ⟨rfl, hp, rfl⟩)
    · simp only [hp, if_false, State.fetch] at h
      cases hf : s.cfg.prog[s.pcWord.toNat]? with
      | some w => simp [hf] at h
      | none =>
        simp only [hf] at h
        cases h
        have := List.getElem?_eq_none_iff.mp hf
        exact .inr (.inr ⟨rfl, by omega, rfl⟩)

/-- The word of a step that executes answers a next state: an instruction's effect or the reported no-op. -/
theorem execWord_next (w : Word) :
    ∃ t, execWord w s = .next t ∧
      ((∃ i, decode w = .ok i ∧ exec i s = .next t) ∨
        ((∃ e, decode w = .error e) ∧ t = (s.report .decodeUnknownOpcode).advance)) := by
  unfold execWord
  cases hd : decode w with
  | error e => exact ⟨_, rfl, .inr ⟨⟨e, rfl⟩, rfl⟩⟩
  | ok i =>
    obtain ⟨t, ht, _⟩ := exec_effect s i
    exact ⟨t, ht, .inl ⟨i, rfl, ht⟩⟩

/-- R123: everything a step can do. -/
theorem step_next {t : State} (h : step s = .next t) :
    s.ConfigInRange ∧
      ((s.status ≠ .running ∧ t = s.stopped) ∨
        (s.status = .running ∧ s.pcWord < 0 ∧ t = s.raise .pcOutOfRange) ∨
        (s.status = .running ∧ (s.cfg.prog.length : Int) ≤ s.pcWord ∧ t = s.runOffEnd) ∨
        (∃ w u, s.fetchOrEnd = .ok w ∧ execWord w s.beginHandler = .next u ∧ t = u.endHandler)) := by
  unfold step at h
  split at h
  · rename_i hc
    refine ⟨hc, ?_⟩
    split at h
    · rename_i e he
      cases h
      rcases fetchOrEnd_error s he with x | x | x
      · exact .inl x
      · exact .inr (.inl x)
      · exact .inr (.inr (.inl x))
    · rename_i w hw
      obtain ⟨u, hu, _⟩ := execWord_next s.beginHandler w
      rw [hu] at h
      cases h
      exact .inr (.inr (.inr ⟨w, u, hw, hu, rfl⟩))
  · cases h

/-- The clamp at the end of a handler is seen by no field but the register file. -/
theorem endHandler_cases (u : State) : u.endHandler = u ∨ u.endHandler = u.clampX0 := by
  unfold State.endHandler
  cases u.status <;> simp

end Sys2Proof.Machine
end

