-- ==== Sys2Proof/Laws/PerInstr.lean ====
section
/-! SUPPORT. The family EncodeRow: the word of every instruction belongs to the row of spec/opcode_table.json that carries its
mnemonic (30_encoding.md R104), one lemma per constructor. -/

namespace Sys2Proof.Laws.EncodeRow

/-- The encoder puts the instruction in its own row of the opcode table. -/
def Statement (i : Instr) : Prop := ∃ r ∈ opcodeTable, r.mnemonic = i.mnemonic ∧ r.Has (encode i)

theorem add (rd rs1 rs2 : Reg) : Statement (.add rd rs1 rs2) :=
  ⟨⟨"ADD", 0x00000033#32, 0xFE00707F#32⟩, by simp [opcodeTable, opRows], rfl, by
    simp [OpcodeRow.Has, and_opcode_funct3_funct7, encode, place]⟩

theorem sub (rd rs1 rs2 : Reg) : Statement (.sub rd rs1 rs2) :=
  ⟨⟨"SUB", 0x40000033#32, 0xFE00707F#32⟩, by simp [opcodeTable, opRows], rfl, by
    simp [OpcodeRow.Has, and_opcode_funct3_funct7, encode, place]⟩

theorem sll (rd rs1 rs2 : Reg) : Statement (.sll rd rs1 rs2) :=
  ⟨⟨"SLL", 0x00001033#32, 0xFE00707F#32⟩, by simp [opcodeTable, opRows], rfl, by
    simp [OpcodeRow.Has, and_opcode_funct3_funct7, encode, place]⟩

theorem slt (rd rs1 rs2 : Reg) : Statement (.slt rd rs1 rs2) :=
  ⟨⟨"SLT", 0x00002033#32, 0xFE00707F#32⟩, by simp [opcodeTable, opRows], rfl, by
    simp [OpcodeRow.Has, and_opcode_funct3_funct7, encode, place]⟩

theorem sltu (rd rs1 rs2 : Reg) : Statement (.sltu rd rs1 rs2) :=
  ⟨⟨"SLTU", 0x00003033#32, 0xFE00707F#32⟩, by simp [opcodeTable, opRows], rfl, by
    simp [OpcodeRow.Has, and_opcode_funct3_funct7, encode, place]⟩

theorem xor (rd rs1 rs2 : Reg) : Statement (.xor rd rs1 rs2) :=
  ⟨⟨"XOR", 0x00004033#32, 0xFE00707F#32⟩, by simp [opcodeTable, opRows], rfl, by
    simp [OpcodeRow.Has, and_opcode_funct3_funct7, encode, place]⟩

theorem srl (rd rs1 rs2 : Reg) : Statement (.srl rd rs1 rs2) :=
  ⟨⟨"SRL", 0x00005033#32, 0xFE00707F#32⟩, by simp [opcodeTable, opRows], rfl, by
    simp [OpcodeRow.Has, and_opcode_funct3_funct7, encode, place]⟩

theorem sra (rd rs1 rs2 : Reg) : Statement (.sra rd rs1 rs2) :=
  ⟨⟨"SRA", 0x40005033#32, 0xFE00707F#32⟩, by simp [opcodeTable, opRows], rfl, by
    simp [OpcodeRow.Has, and_opcode_funct3_funct7, encode, place]⟩

theorem or (rd rs1 rs2 : Reg) : Statement (.or rd rs1 rs2) :=
  ⟨⟨"OR", 0x00006033#32, 0xFE00707F#32⟩, by simp [opcodeTable, opRows], rfl, by
    simp [OpcodeRow.Has, and_opcode_funct3_funct7, encode, place]⟩

theorem and (rd rs1 rs2 : Reg) : Statement (.and rd rs1 rs2) :=
  ⟨⟨"AND", 0x00007033#32, 0xFE00707F#32⟩, by simp [opcodeTable, opRows], rfl, by
    simp [OpcodeRow.Has, and_opcode_funct3_funct7, encode, place]⟩

theorem addi (rd rs1 : Reg) (imm : BitVec 12) : Statement (.addi rd rs1 imm) :=
  ⟨⟨"ADDI", 0x00000013#32, 0x0000707F#32⟩, by simp [opcodeTable, opImmRows], rfl, by
    simp [OpcodeRow.Has, and_opcode_funct3, encode, place]⟩

theorem slti (rd rs1 : Reg) (imm : BitVec 12) : Statement (.slti rd rs1 imm) :=
  ⟨⟨"SLTI", 0x00002013#32, 0x0000707F#32⟩, by simp [opcodeTable, opImmRows], rfl, by
    simp [OpcodeRow.Has, and_opcode_funct3, encode, place]⟩

theorem sltiu (rd rs1 : Reg) (imm : BitVec 12) : Statement (.sltiu rd rs1 imm) :=
  ⟨⟨"SLTIU", 0x00003013#32, 0x0000707F#32⟩, by simp [opcodeTable, opImmRows], rfl, by
    simp [OpcodeRow.Has, and_opcode_funct3, encode, place]⟩

theorem xori (rd rs1 : Reg) (imm : BitVec 12) : Statement (.xori rd rs1 imm) :=
  ⟨⟨"XORI", 0x00004013#32, 0x0000707F#32⟩, by simp [opcodeTable, opImmRows], rfl, by
    simp [OpcodeRow.Has, and_opcode_funct3, encode, place]⟩

theorem ori (rd rs1 : Reg) (imm : BitVec 12) : Statement (.ori rd rs1 imm) :=
  ⟨⟨"ORI", 0x00006013#32, 0x0000707F#32⟩, by simp [opcodeTable, opImmRows], rfl, by
    simp [OpcodeRow.Has, and_opcode_funct3, encode, place]⟩

theorem andi (rd rs1 : Reg) (imm : BitVec 12) : Statement (.andi rd rs1 imm) :=
  ⟨⟨"ANDI", 0x00007013#32, 0x0000707F#32⟩, by simp [opcodeTable, opImmRows], rfl, by
    simp [OpcodeRow.Has, and_opcode_funct3, encode, place]⟩

theorem slli (rd rs1 : Reg) (shamt : BitVec 5) : Statement (.slli rd rs1 shamt) :=
  ⟨⟨"SLLI", 0x00001013#32, 0xFE00707F#32⟩, by simp [opcodeTable, opImmRows], rfl, by
    simp [OpcodeRow.Has, and_opcode_funct3_funct7, encode, place]⟩

theorem srli (rd rs1 : Reg) (shamt : BitVec 5) : Statement (.srli rd rs1 shamt) :=
  ⟨⟨"SRLI", 0x00005013#32, 0xFE00707F#32⟩, by simp [opcodeTable, opImmRows], rfl, by
    simp [OpcodeRow.Has, and_opcode_funct3_funct7, encode, place]⟩

theorem srai (rd rs1 : Reg) (shamt : BitVec 5) : Statement (.srai rd rs1 shamt) :=
  ⟨⟨"SRAI", 0x40005013#32, 0xFE00707F#32⟩, by simp [opcodeTable, opImmRows], rfl, by
    simp [OpcodeRow.Has, and_opcode_funct3_funct7, encode, place]⟩

theorem lb (rd rs1 : Reg) (imm : BitVec 12) : Statement (.lb rd rs1 imm) :=
  ⟨⟨"LB", 0x00000003#32, 0x0000707F#32⟩, by simp [opcodeTable, loadRows], rfl, by
    simp [OpcodeRow.Has, and_opcode_funct3, encode, place]⟩

theorem lh (rd rs1 : Reg) (imm : BitVec 12) : Statement (.lh rd rs1 imm) :=
  ⟨⟨"LH", 0x00001003#32, 0x0000707F#32⟩, by simp [opcodeTable, loadRows], rfl, by
    simp [OpcodeRow.Has, and_opcode_funct3, encode, place]⟩

theorem lw (rd rs1 : Reg) (imm : BitVec 12) : Statement (.lw rd rs1 imm) :=
  ⟨⟨"LW", 0x00002003#32, 0x0000707F#32⟩, by simp [opcodeTable, loadRows], rfl, by
    simp [OpcodeRow.Has, and_opcode_funct3, encode, place]⟩

theorem lbu (rd rs1 : Reg) (imm : BitVec 12) : Statement (.lbu rd rs1 imm) :=
  ⟨⟨"LBU", 0x00004003#32, 0x0000707F#32⟩, by simp [opcodeTable, loadRows], rfl, by
    simp [OpcodeRow.Has, and_opcode_funct3, encode, place]⟩

theorem lhu (rd rs1 : Reg) (imm : BitVec 12) : Statement (.lhu rd rs1 imm) :=
  ⟨⟨"LHU", 0x00005003#32, 0x0000707F#32⟩, by simp [opcodeTable, loadRows], rfl, by
    simp [OpcodeRow.Has, and_opcode_funct3, encode, place]⟩

theorem sb (rs2 rs1 : Reg) (imm : BitVec 12) : Statement (.sb rs2 rs1 imm) :=
  ⟨⟨"SB", 0x00000023#32, 0x0000707F#32⟩, by simp [opcodeTable, storeRows], rfl, by
    simp [OpcodeRow.Has, and_opcode_funct3, encode, place]⟩

theorem sh (rs2 rs1 : Reg) (imm : BitVec 12) : Statement (.sh rs2 rs1 imm) :=
  ⟨⟨"SH", 0x00001023#32, 0x0000707F#32⟩, by simp [opcodeTable, storeRows], rfl, by
    simp [OpcodeRow.Has, and_opcode_funct3, encode, place]⟩

theorem sw (rs2 rs1 : Reg) (imm : BitVec 12) : Statement (.sw rs2 rs1 imm) :=
  ⟨⟨"SW", 0x00002023#32, 0x0000707F#32⟩, by simp [opcodeTable, storeRows], rfl, by
    simp [OpcodeRow.Has, and_opcode_funct3, encode, place]⟩

theorem beq (rs1 rs2 : Reg) (offset : BitVec 13) : Statement (.beq rs1 rs2 offset) :=
  ⟨⟨"BEQ", 0x00000063#32, 0x0000707F#32⟩, by simp [opcodeTable, branchRows], rfl, by
    simp [OpcodeRow.Has, and_opcode_funct3, encode, place]⟩

theorem bne (rs1 rs2 : Reg) (offset : BitVec 13) : Statement (.bne rs1 rs2 offset) :=
  ⟨⟨"BNE", 0x00001063#32, 0x0000707F#32⟩, by simp [opcodeTable, branchRows], rfl, by
    simp [OpcodeRow.Has, and_opcode_funct3, encode, place]⟩

theorem blt (rs1 rs2 : Reg) (offset : BitVec 13) : Statement (.blt rs1 rs2 offset) :=
  ⟨⟨"BLT", 0x00004063#32, 0x0000707F#32⟩, by simp [opcodeTable, branchRows], rfl, by
    simp [OpcodeRow.Has, and_opcode_funct3, encode, place]⟩

theorem bge (rs1 rs2 : Reg) (offset : BitVec 13) : Statement (.bge rs1 rs2 offset) :=
  ⟨⟨"BGE", 0x00005063#32, 0x0000707F#32⟩, by simp [opcodeTable, branchRows], rfl, by
    simp [OpcodeRow.Has, and_opcode_funct3, encode, place]⟩

theorem bltu (rs1 rs2 : Reg) (offset : BitVec 13) : Statement (.bltu rs1 rs2 offset) :=
  ⟨⟨"BLTU", 0x00006063#32, 0x0000707F#32⟩, by simp [opcodeTable, branchRows], rfl, by
    simp [OpcodeRow.Has, and_opcode_funct3, encode, place]⟩

theorem bgeu (rs1 rs2 : Reg) (offset : BitVec 13) : Statement (.bgeu rs1 rs2 offset) :=
  ⟨⟨"BGEU", 0x00007063#32, 0x0000707F#32⟩, by simp [opcodeTable, branchRows], rfl, by
    simp [OpcodeRow.Has, and_opcode_funct3, encode, place]⟩

theorem jal (rd : Reg) (offset : BitVec 21) : Statement (.jal rd offset) :=
  ⟨⟨"JAL", 0x0000006F#32, 0x0000007F#32⟩, by simp [opcodeTable, jumpUpperRows], rfl, by
    simp [OpcodeRow.Has, and_opcode, encode, place]⟩

theorem jalr (rd rs1 : Reg) (imm : BitVec 12) : Statement (.jalr rd rs1 imm) :=
  ⟨⟨"JALR", 0x00000067#32, 0x0000707F#32⟩, by simp [opcodeTable, jumpUpperRows], rfl, by
    simp [OpcodeRow.Has, and_opcode_funct3, encode, place]⟩

theorem lui (rd : Reg) (imm20 : BitVec 20) : Statement (.lui rd imm20) :=
  ⟨⟨"LUI", 0x00000037#32, 0x0000007F#32⟩, by simp [opcodeTable, jumpUpperRows], rfl, by
    simp [OpcodeRow.Has, and_opcode, encode, place]⟩

theorem auipc (rd : Reg) (imm20 : BitVec 20) : Statement (.auipc rd imm20) :=
  ⟨⟨"AUIPC", 0x00000017#32, 0x0000007F#32⟩, by simp [opcodeTable, jumpUpperRows], rfl, by
    simp [OpcodeRow.Has, and_opcode, encode, place]⟩

theorem fence (fm pred succ : BitVec 4) (rs1 rd : Reg) : Statement (.fence fm pred succ rs1 rd) :=
  ⟨⟨"FENCE", 0x0000000F#32, 0x0000707F#32⟩, by simp [opcodeTable, fenceRows], rfl, by
    simp [OpcodeRow.Has, and_opcode_funct3, encode, place]⟩

theorem fenceI (imm : BitVec 12) (rs1 rd : Reg) : Statement (.fenceI imm rs1 rd) :=
  ⟨⟨"FENCE.I", 0x0000100F#32, 0x0000707F#32⟩, by simp [opcodeTable, fenceRows], rfl, by
    simp [OpcodeRow.Has, and_opcode_funct3, encode, place]⟩

theorem ecall (rs1 rd : Reg) : Statement (.ecall rs1 rd) :=
  ⟨⟨"ECALL", 0x00000073#32, 0xFFF0707F#32⟩, by simp [opcodeTable, systemRows], rfl, by
    simp [OpcodeRow.Has, and_opcode_funct3_imm, encode, place]⟩

theorem ebreak (rs1 rd : Reg) : Statement (.ebreak rs1 rd) :=
  ⟨⟨"EBREAK", 0x00100073#32, 0xFFF0707F#32⟩, by simp [opcodeTable, systemRows], rfl, by
    simp [OpcodeRow.Has, and_opcode_funct3_imm, encode, place]⟩

theorem csrrw (rd : Reg) (csr : BitVec 12) (rs1 : Reg) : Statement (.csrrw rd csr rs1) :=
  ⟨⟨"CSRRW", 0x00001073#32, 0x0000707F#32⟩, by simp [opcodeTable, systemRows], rfl, by
    simp [OpcodeRow.Has, and_opcode_funct3, encode, place]⟩

theorem csrrs (rd : Reg) (csr : BitVec 12) (rs1 : Reg) : Statement (.csrrs rd csr rs1) :=
  ⟨⟨"CSRRS", 0x00002073#32, 0x0000707F#32⟩, by simp [opcodeTable, systemRows], rfl, by
    simp [OpcodeRow.Has, and_opcode_funct3, encode, place]⟩

theorem csrrc (rd : Reg) (csr : BitVec 12) (rs1 : Reg) : Statement (.csrrc rd csr rs1) :=
  ⟨⟨"CSRRC", 0x00003073#32, 0x0000707F#32⟩, by simp [opcodeTable, systemRows], rfl, by
    simp [OpcodeRow.Has, and_opcode_funct3, encode, place]⟩

theorem csrrwi (rd : Reg) (csr : BitVec 12) (uimm : BitVec 5) : Statement (.csrrwi rd csr uimm) :=
  ⟨⟨"CSRRWI", 0x00005073#32, 0x0000707F#32⟩, by simp [opcodeTable, systemRows], rfl, by
    simp [OpcodeRow.Has, and_opcode_funct3, encode, place]⟩

theorem csrrsi (rd : Reg) (csr : BitVec 12) (uimm : BitVec 5) : Statement (.csrrsi rd csr uimm) :=
  ⟨⟨"CSRRSI", 0x00006073#32, 0x0000707F#32⟩, by simp [opcodeTable, systemRows], rfl, by
    simp [OpcodeRow.Has, and_opcode_funct3, encode, place]⟩

theorem csrrci (rd : Reg) (csr : BitVec 12) (uimm : BitVec 5) : Statement (.csrrci rd csr uimm) :=
  ⟨⟨"CSRRCI", 0x00007073#32, 0x0000707F#32⟩, by simp [opcodeTable, systemRows], rfl, by
    simp [OpcodeRow.Has, and_opcode_funct3, encode, place]⟩

end Sys2Proof.Laws.EncodeRow
end

