-- ==== Sys2Proof/Tests/Slice0.lean ====
section
/-! SUPPORT. The model's own tests: WellFormed on ill-formed terms, every constructor's decoding by a word of the spec, at most two single
steps per instruction with the results of 95_test_vectors.md or of an instruction's own Example line, and for every obligation with
hypotheses a witness that meets them. -/

namespace Sys2Proof.Tests

open Sys2Proof.Machine

/-! ### Helpers -/

/-- The memory of 95_test_vectors.md §2.3. -/
def loadBytes : Memory := [(0x100, 0x80), (0x101, 0xFF), (0x102, 0x7F), (0x103, 0x01), (0x104, 0xAA), (0x105, 0x55),
  (1020, 0x11), (1021, 0x22), (1022, 0x33), (1023, 0x84)]

/-- The memory of 95_test_vectors.md §2.9. -/
def textBytes : Memory := [(0x100, 0x48), (0x101, 0x69), (0x102, 0x21), (1021, 0x41), (1022, 0x42), (1023, 0x43)]

/-- The configuration of 95_test_vectors.md: 1024 bytes, SP_INIT 0x3F0. -/
def vectorConfig (mem : Memory) : Config where
  memSize := 1024
  prog := []
  spInit := 0x3F0#32
  memInit := mem

/-- A running state at word index `pc` whose next word is `w`. -/
def poised (w : Word) (pc : Int) (regs : List (Reg × Word)) (mem : Memory := []) : State :=
  (regs.foldl (fun (s : State) (r : Reg × Word) => s.writeReg r.1 r.2)
    { State.resetWith (vectorConfig mem) with pcWord := pc }).withFetchWord 32 w.toNat

/-- A view of the state after one step. -/
def after {α : Type} (s : State) (view : State → α) : Option α :=
  match step s with
  | .next t => some (view t)
  | .fault _ => none
  | .refused _ => none

/-- A register, the word index and the result. -/
def seen (r : Reg) (t : State) : Word × Int × Option StepResult := (t.readReg r, t.pcWord, t.result)

/-- The step result of a fatal access at index 0. -/
def fatalAt0 : Option StepResult := some (.fatal .outOfBoundsMemoryAccess 0)

/-! ### WellFormed -/

theorem test_wellFormed_refuses_odd_branch_offset : (Instr.beq 0#5 0#5 7#13).wellFormed = false := by decide
theorem test_wellFormed_refuses_odd_jump_offset : (Instr.jal 1#5 7#21).wellFormed = false := by decide
theorem test_wellFormed_accepts_even_offsets :
    (Instr.bgeu 1#5 2#5 (-4096#13)).wellFormed = true ∧ (Instr.jal 1#5 (-16#21)).wellFormed = true := by decide

/-! ### Decoding, words from 95_test_vectors.md and the Example lines -/

theorem test_decode_add_sub : decode 0x002081B3#32 = .ok (.add 3#5 1#5 2#5) ∧ decode 0x402081B3#32 = .ok (.sub 3#5 1#5 2#5) := by
  decide
theorem test_decode_register_shifts : decode 0x002091B3#32 = .ok (.sll 3#5 1#5 2#5) ∧
    decode 0x0020D1B3#32 = .ok (.srl 3#5 1#5 2#5) ∧ decode 0x4020D1B3#32 = .ok (.sra 3#5 1#5 2#5) := by decide
theorem test_decode_register_compare_logic : decode 0x0020A1B3#32 = .ok (.slt 3#5 1#5 2#5) ∧
    decode 0x0020B1B3#32 = .ok (.sltu 3#5 1#5 2#5) ∧ decode 0x0020C1B3#32 = .ok (.xor 3#5 1#5 2#5) ∧
    decode 0x0020E1B3#32 = .ok (.or 3#5 1#5 2#5) ∧ decode 0x0020F1B3#32 = .ok (.and 3#5 1#5 2#5) := by decide
theorem test_decode_immediate_arith : decode 0xFFD08113#32 = .ok (.addi 2#5 1#5 (-3#12)) ∧
    decode 0x8000A113#32 = .ok (.slti 2#5 1#5 (-2048#12)) ∧ decode 0x0010B113#32 = .ok (.sltiu 2#5 1#5 1#12) ∧
    decode 0x7FF0C113#32 = .ok (.xori 2#5 1#5 2047#12) ∧ decode 0x6780E113#32 = .ok (.ori 2#5 1#5 1656#12) ∧
    decode 0xF000F113#32 = .ok (.andi 2#5 1#5 (-256#12)) := by decide
theorem test_decode_immediate_shifts : decode 0x00409113#32 = .ok (.slli 2#5 1#5 4#5) ∧
    decode 0x01F0D113#32 = .ok (.srli 2#5 1#5 31#5) ∧ decode 0x41F0D113#32 = .ok (.srai 2#5 1#5 31#5) ∧
    decode 0x42009113#32 = .error .unassignedFunction ∧ decode 0x8000D113#32 = .error .unassignedFunction := by decide
theorem test_decode_loads : decode 0xFFF30383#32 = .ok (.lb 7#5 6#5 (-1#12)) ∧ decode 0x00131383#32 = .ok (.lh 7#5 6#5 1#12) ∧
    decode 0x80032383#32 = .ok (.lw 7#5 6#5 (-2048#12)) ∧ decode 0x00034383#32 = .ok (.lbu 7#5 6#5 0#12) ∧
    decode 0x00135383#32 = .ok (.lhu 7#5 6#5 1#12) := by decide
theorem test_decode_stores : decode 0x005300A3#32 = .ok (.sb 5#5 6#5 1#12) ∧ decode 0xFE531FA3#32 = .ok (.sh 5#5 6#5 (-1#12)) ∧
    decode 0x80532023#32 = .ok (.sw 5#5 6#5 (-2048#12)) := by decide
theorem test_decode_branches : decode 0x7E000FE3#32 = .ok (.beq 0#5 0#5 4094#13) ∧ decode 0x00209463#32 = .ok (.bne 1#5 2#5 8#13) ∧
    decode 0x0020C463#32 = .ok (.blt 1#5 2#5 8#13) ∧ decode 0x0020D463#32 = .ok (.bge 1#5 2#5 8#13) ∧
    decode 0x0020E463#32 = .ok (.bltu 1#5 2#5 8#13) ∧ decode 0x0020F463#32 = .ok (.bgeu 1#5 2#5 8#13) := by decide
theorem test_decode_jumps_upper : decode 0x7FDFF0EF#32 = .ok (.jal 1#5 1048572#21) ∧
    decode 0x800280E7#32 = .ok (.jalr 1#5 5#5 (-2048#12)) ∧ decode 0x123452B7#32 = .ok (.lui 5#5 0x12345#20) ∧
    decode 0x80000297#32 = .ok (.auipc 5#5 0x80000#20) := by decide
theorem test_decode_fences : decode 0x0FF3028F#32 = .ok (.fence 0#4 15#4 15#4 6#5 5#5) ∧
    decode 0x0000100F#32 = .ok (.fenceI 0#12 0#5 0#5) ∧ decode 0x0000200F#32 = .error .unassignedFunction := by decide
theorem test_decode_calls : decode 0x00028573#32 = .ok (.ecall 5#5 10#5) ∧ decode 0x00100073#32 = .ok (.ebreak 0#5 0#5) ∧
    decode 0x00200073#32 = .error .unassignedFunction ∧ decode 0x30200073#32 = .error .unassignedFunction := by decide
theorem test_decode_csr : decode 0x300312F3#32 = .ok (.csrrw 5#5 0x300#12 6#5) ∧ decode 0xC00022F3#32 = .ok (.csrrs 5#5 0xC00#12 0#5) ∧
    decode 0x300332F3#32 = .ok (.csrrc 5#5 0x300#12 6#5) ∧ decode 0x305FD2F3#32 = .ok (.csrrwi 5#5 0x305#12 31#5) ∧
    decode 0x300362F3#32 = .ok (.csrrsi 5#5 0x300#12 6#5) ∧ decode 0x300372F3#32 = .ok (.csrrci 5#5 0x300#12 6#5) := by
  decide
theorem test_decodeTableWord : decodeTableWord 32 0x80000297 = some (.auipc 5#5 0x80000#20) ∧ decodeTableWord 32 0x7F = none := by
  decide
theorem test_encode : encode (.addi 2#5 1#5 (-3#12)) = 0xFFD08113#32 ∧ encode (.sh 5#5 6#5 (-1#12)) = 0xFE531FA3#32 ∧
    encode (.beq 0#5 0#5 (-8#13)) = 0xFE000CE3#32 ∧ encode (.jal 1#5 (-16#21)) = 0xFF1FF0EF#32 := by decide

/-- T1, the row of 0xFE000CE3: every field of the record. -/
theorem test_record_of_a_branch : decodeRecord 0xFE000CE3#32
    = ⟨0xFE000CE3#32, 0x63#7, 25#5, 0#3, 0#5, 0#5, 0x7F#7, 0xFFFFFFF8#32, .b⟩ := by decide

/-! ### One step, 95_test_vectors.md §2.1 and §2.2 -/

theorem test_add_wraps : after (poised 0x002081B3#32 0 [(1, 0xFFFFFFFF), (2, 1)]) (seen 3) = some (0#32, 1, some .ok) := by
  decide
theorem test_add_source_is_destination : after (poised 0x001080B3#32 0 [(1, 0x40000001)]) (seen 1)
    = some (0x80000002#32, 1, some .ok) := by decide
theorem test_sub_order : after (poised 0x402081B3#32 0 [(1, 5), (2, 7)]) (seen 3) = some (0xFFFFFFFE#32, 1, some .ok) := by
  decide
theorem test_sll_count : after (poised 0x002091B3#32 0 [(1, 3), (2, 0xFFFFFFE4)]) (seen 3) = some (0x30#32, 1, some .ok) := by
  decide
theorem test_slt_signed : after (poised 0x0020A1B3#32 0 [(1, 0x80000000), (2, 0x7FFFFFFF)]) (seen 3) = some (1#32, 1, some .ok) := by
  decide
theorem test_sltu_unsigned : after (poised 0x0020B1B3#32 0 [(1, 0xFFFFFFFF), (2, 1)]) (seen 3) = some (0#32, 1, some .ok) := by
  decide
theorem test_xor : after (poised 0x0020C1B3#32 0 [(1, 0xFF00FF00), (2, 0x0FF00FF0)]) (seen 3)
    = some (0xF0F0F0F0#32, 1, some .ok) := by decide
theorem test_srl_zero_fill : after (poised 0x0020D1B3#32 0 [(1, 0x80000000), (2, 0x3F)]) (seen 3) = some (1#32, 1, some .ok) := by
  decide
theorem test_sra_sign_fill : after (poised 0x4020D1B3#32 0 [(1, 0xFFFFFFF8), (2, 1)]) (seen 3)
    = some (0xFFFFFFFC#32, 1, some .ok) := by decide
theorem test_or : after (poised 0x0020E1B3#32 0 [(1, 0xFF00FF00), (2, 0x0FF00FF0)]) (seen 3)
    = some (0xFFF0FFF0#32, 1, some .ok) := by decide
theorem test_and : after (poised 0x0020F1B3#32 0 [(1, 0xFF00FF00), (2, 0x0FF00FF0)]) (seen 3)
    = some (0x0F000F00#32, 1, some .ok) := by decide
theorem test_addi_negative : after (poised 0xFFD08113#32 0 [(1, 5)]) (seen 2) = some (2#32, 1, some .ok) := by decide
theorem test_addi_to_x0 : after (poised 0x00128013#32 0 [(5, 7)]) (fun t => (seen 0 t, t.regs[0]))
    = some ((0#32, 1, some .ok), 0#32) := by decide
theorem test_slti_signed : after (poised 0x0000A113#32 0 [(1, 0xFFFFFFFF)]) (seen 2) = some (1#32, 1, some .ok) := by decide
theorem test_sltiu_extends_first : after (poised 0x8000B113#32 0 [(1, 0xFFFFF7FF)]) (seen 2) = some (1#32, 1, some .ok) := by
  decide
theorem test_xori : after (poised 0x7FF0C113#32 0 [(1, 0x12345678)]) (seen 2) = some (0x12345187#32, 1, some .ok) := by decide
theorem test_ori_negative : after (poised 0x8000E113#32 0 [(1, 1)]) (seen 2) = some (0xFFFFF801#32, 1, some .ok) := by decide
theorem test_andi_negative : after (poised 0xF000F113#32 0 [(1, 0x12345678)]) (seen 2) = some (0x12345600#32, 1, some .ok) := by
  decide
theorem test_slli : after (poised 0x00109113#32 0 [(1, 0x80000001)]) (seen 2) = some (2#32, 1, some .ok) := by decide
theorem test_srli : after (poised 0x0010D113#32 0 [(1, 0xFFFFFFF8)]) (seen 2) = some (0x7FFFFFFC#32, 1, some .ok) := by decide
theorem test_srai : after (poised 0x4010D113#32 0 [(1, 0xFFFFFFF8)]) (seen 2) = some (0xFFFFFFFC#32, 1, some .ok) := by decide

/-! ### §2.3, §2.4 -/

theorem test_lb_sign : after (poised 0x00030383#32 0 [(6, 0x3FF)] loadBytes) (seen 7) = some (0xFFFFFF84#32, 1, some .ok) := by
  decide
theorem test_lb_out_of_bounds : after (poised 0x00030383#32 0 [(6, 0x400), (7, 0xDEADBEEF)] loadBytes) (seen 7)
    = some (0xDEADBEEF#32, 0, fatalAt0) := by decide
theorem test_lbu : after (poised 0x00034383#32 0 [(6, 0x100)] loadBytes) (seen 7) = some (0x80#32, 1, some .ok) := by decide
theorem test_lh_last : after (poised 0x00031383#32 0 [(6, 0x3FE)] loadBytes) (seen 7) = some (0xFFFF8433#32, 1, some .ok) := by
  decide
theorem test_lh_straddles_the_end : after (poised 0x00031383#32 0 [(6, 0x3FF), (7, 0xDEADBEEF)] loadBytes) (seen 7)
    = some (0xDEADBEEF#32, 0, fatalAt0) := by decide
theorem test_lhu_odd : after (poised 0x00135383#32 0 [(6, 0x100)] loadBytes) (seen 7) = some (0x7FFF#32, 1, some .ok) := by
  decide
theorem test_lw_misaligned : after (poised 0x00132383#32 0 [(6, 0x100)] loadBytes) (seen 7) = some (0xAA017FFF#32, 1, some .ok) := by
  decide
theorem test_lw_address_wraps : after (poised 0x00132383#32 0 [(6, 0xFFFFFFFF), (7, 0xDEADBEEF)] loadBytes) (seen 7)
    = some (0#32, 1, some .ok) := by decide
theorem test_sb_last : after (poised 0x00530023#32 0 [(6, 0x3FF), (5, 0xFF)]) (fun t => (t.mem, t.pcWord)) = some ([(1023, 0xFF)], 1) := by
  decide
theorem test_sh_odd : after (poised 0xFE531FA3#32 0 [(6, 0x100), (5, 0xABCD)]) (fun t => (t.mem, t.pcWord))
    = some ([(255, 0xCD), (256, 0xAB)], 1) := by decide
theorem test_sw_little_endian : after (poised 0x005320A3#32 0 [(6, 0x100), (5, 0x12345678)]) (fun t => (t.mem, t.pcWord))
    = some ([(257, 0x78), (258, 0x56), (259, 0x34), (260, 0x12)], 1) := by decide
theorem test_sw_straddles_the_end : after (poised 0x00532023#32 0 [(6, 0x3FD), (5, 1)]) (fun t => (t.mem, t.pcWord, t.status, t.result))
    = some ([], 0, .faulted .outOfBoundsMemoryAccess 0, fatalAt0) := by decide

/-! ### §2.5, §2.6, §2.7 -/

theorem test_beq_not_taken : after (poised 0x00208463#32 10 [(1, 4), (2, 5)]) (·.pcWord) = some 11 := by decide
theorem test_beq_rounds_toward_zero : after (poised 0xFE000DE3#32 10 []) (·.pcWord) = some 9 := by decide
theorem test_bne_taken : after (poised 0x00209463#32 10 [(1, 4), (2, 5)]) (·.pcWord) = some 12 := by decide
theorem test_blt_signed : after (poised 0x0020C463#32 10 [(1, 0xFFFFFFFF), (2, 1)]) (·.pcWord) = some 12 := by decide
theorem test_blt_equal : after (poised 0x0020C463#32 10 [(1, 3), (2, 3)]) (·.pcWord) = some 11 := by decide
theorem test_bge_equal : after (poised 0x0020D463#32 10 [(1, 3), (2, 3)]) (·.pcWord) = some 12 := by decide
theorem test_bge_signed : after (poised 0x0020D463#32 10 [(1, 0xFFFFFFFF), (2, 1)]) (·.pcWord) = some 11 := by decide
theorem test_bltu_unsigned : after (poised 0x0020E463#32 10 [(1, 0xFFFFFFFF), (2, 1)]) (·.pcWord) = some 11 := by decide
theorem test_bltu_taken : after (poised 0x0020E463#32 10 [(1, 1), (2, 0xFFFFFFFF)]) (·.pcWord) = some 12 := by decide
theorem test_bgeu_unsigned : after (poised 0x0020F463#32 10 [(1, 0xFFFFFFFF), (2, 1)]) (·.pcWord) = some 12 := by decide
theorem test_bgeu_not_taken : after (poised 0x0020F463#32 10 [(1, 1), (2, 0xFFFFFFFF)]) (·.pcWord) = some 11 := by decide
theorem test_jal_back : after (poised 0xFF1FF0EF#32 10 []) (seen 1) = some (44#32, 6, some .ok) := by decide
theorem test_jal_before_the_start : after (poised 0x800000EF#32 10 []) (seen 1) = some (44#32, -262134, some .ok) := by decide
theorem test_jalr_old_source : after (poised 0x000282E7#32 10 [(5, 0x40)]) (seen 5) = some (44#32, 16, some .ok) := by decide
theorem test_jalr_signed_target : after (poised 0x000280E7#32 10 [(5, 0x80000000)]) (seen 1)
    = some (44#32, -536870912, some .ok) := by decide
theorem test_lui : after (poised 0xFFFFF2B7#32 0 [(5, 0xDEADBEEF)]) (seen 5) = some (0xFFFFF000#32, 1, some .ok) := by decide
theorem test_auipc_wraps : after (poised 0xFFFFF297#32 3 []) (seen 5) = some (0xFFFFF00C#32, 4, some .ok) := by decide

/-! ### §2.8, §2.9, §2.10 -/

theorem test_fence_leaves_rd : after (poised 0x0FF3028F#32 0 [(5, 0x55), (6, 0x66)]) (seen 5) = some (0x55#32, 1, some .ok) := by
  decide
theorem test_fence_i : after (poised 0x0000100F#32 7 []) (·.pcWord) = some 8 := by decide
theorem test_ecall_print_int_negative : after (poised 0x00000073#32 0 [(10, 1), (11, 0x80000000)]) (fun t => (t.out, t.result))
    = some ([.printInt (-2147483648)], some .ok) := by decide
theorem test_ecall_print_string : after (poised 0x00000073#32 0 [(10, 4), (11, 0x100)] textBytes) (fun t => (t.out, t.result))
    = some ([.printString [0x48, 0x69, 0x21]], some .ok) := by decide
theorem test_ebreak_does_not_exit : after (poised 0x00100073#32 0 [(10, 10)]) (fun t => (t.status, t.pcWord, t.result))
    = some (.running, 1, some .ok) := by decide
theorem test_csrrw_leaves_rd : after (poised 0x300312F3#32 2 [(5, 0x55), (6, 0x66)]) (seen 5) = some (0x55#32, 3, some .ok) := by
  decide
theorem test_csrrs_leaves_rd : after (poised 0xC00022F3#32 0 [(5, 0x55)]) (seen 5) = some (0x55#32, 1, some .ok) := by decide
theorem test_csrrc_leaves_rd : after (poised 0x300332F3#32 2 [(5, 0x55)]) (seen 5) = some (0x55#32, 3, some .ok) := by decide
theorem test_csrrwi_leaves_rd : after (poised 0x300352F3#32 0 [(5, 0x55)]) (seen 5) = some (0x55#32, 1, some .ok) := by decide
theorem test_csrrsi_leaves_rd : after (poised 0x300362F3#32 0 [(5, 0x55)]) (seen 5) = some (0x55#32, 1, some .ok) := by decide
theorem test_csrrci_leaves_rd : after (poised 0x300372F3#32 0 [(5, 0x55)]) (seen 5) = some (0x55#32, 1, some .ok) := by decide
theorem test_unrecognised_is_reported : after (poised 0x0000007F#32 5 []) (fun t => (t.pcWord, t.status, t.result))
    = some (6, .running, some (.report .decodeUnknownOpcode 5)) := by decide
theorem test_reset_registers : (State.resetWith (vectorConfig [])).readReg 2 = 0x3F0#32 ∧
    (State.resetWith (vectorConfig [])).readReg 31 = 0#32 := by decide
theorem test_reset_runs_off_the_end : after State.reset (fun t => (t.status, t.pcWord, t.result))
    = some (.halted none, 0, some .ended) := by decide
theorem test_withFetchWord_after_reset : after (State.reset.withFetchWord 32 0x12345297) (seen 5)
    = some (0x12345000#32, 1, some .ok) := by decide
/-- 20_memory.md R66: the first word of a file that begins 00 A0 02 93 is `ADDI x5, x0, 10` of program P1. -/
theorem test_program_image : programOfImage [0x00, 0xA0, 0x02, 0x93] = some [0x00A00293#32] ∧ programOfImage [0x00] = none := by
  decide

/-! ### Witnesses: states and operands that meet every hypothesis of an obligation, one per clause, at the ends of its range -/

/-- `poised` fetches its word. -/
abbrev meets (s : State) (w : Word) (i : Instr) : Prop := s.Fetches w ∧ decode w = .ok i

/-- The state after a step, for hypotheses `step s = .next t`. -/
def next (s : State) : State :=
  match step s with
  | .next t => t
  | .fault _ => s
  | .refused _ => s

/-- 1024 bytes, no program. -/
def idle (mem : Memory) : State := State.resetWith (vectorConfig mem)

theorem witness_ImmediateOfEveryFormat :
    (decodeRecord 0x80008113#32).format = .i ∧ (decodeRecord 0x80532023#32).format = .s ∧
    (decodeRecord 0x80000063#32).format = .b ∧ (decodeRecord 0xFFFFF2B7#32).format = .u ∧
    (decodeRecord 0x800000EF#32).format = .j ∧ (decodeRecord 0x80008113#32).imm = 0xFFFFF800#32 := by decide

theorem witness_FormatIsAFunctionOfTheOpcode :
    (decodeRecord 0x402081B3#32).format = .r ∧ (decodeRecord 0xFFFFFFFF#32).format = .unknown := by decide

theorem witness_DecodeOfEncodeIsTheInstruction :
    (Instr.beq 31#5 31#5 (-4096#13)).wellFormed = true ∧ (Instr.jal 31#5 0xFFFFE#21).wellFormed = true := by decide

theorem witness_EncodeOfDecodeIsTheWord : decode 0xFE531FA3#32 = .ok (.sh 5#5 6#5 (-1#12)) := by decide

theorem witness_RecognitionIsTheOpcodeTable :
    (∃ r ∈ opcodeTable, r.Has 0x402081B3#32) ∧ decode 0x402081B3#32 = .ok (.sub 3#5 1#5 2#5) ∧
    decode 0x7F#32 = .error .unknownOpcode ∧ decode 0x00004073#32 = .error .unassignedFunction := by
  refine ⟨?_, ?_⟩ <;> decide

/-- One word for each line of R106. -/
theorem witness_ReservedFunctionFieldsAreUnrecognised :
    [0x02208033#32, 0x402091B3#32, 0x02009113#32, 0x4200D113#32, 0x00033383#32, 0x00533023#32, 0x0020A463#32, 0x000290E7#32,
      0x0000200F#32, 0x00200073#32, 0x00004073#32].map decode = List.replicate 11 (.error .unassignedFunction) := by rfl

theorem witness_StepRunsTheDecodedInstruction :
    meets (poised 0xFFD08113#32 0 [(1, 5)]) 0xFFD08113#32 (.addi 2#5 1#5 (-3#12)) ∧
    meets (poised 0x00030383#32 0 [(6, 0x400)]) 0x00030383#32 (.lb 7#5 6#5 0#12) ∧
    meets (poised 0x00000073#32 0 [(10, 10)]) 0x00000073#32 (.ecall 0#5 0#5) := by
  unfold meets State.Fetches; decide

theorem witness_StoppedEngineStaysStopped :
    (next (idle [])).ConfigInRange ∧ (next (idle [])).status ≠ .running ∧ (next (idle [])).Reaches (next (next (idle []))) :=
  ⟨by decide, by decide, .step .here rfl⟩

/-- 60_exceptions.md R287: `JAL x1, -44` at index 10 goes to -1. -/
theorem witness_NegativePcWordFails :
    (next (poised 0xFD5FF0EF#32 10 [])).ConfigInRange ∧ (next (poised 0xFD5FF0EF#32 10 [])).status = .running ∧
    (next (poised 0xFD5FF0EF#32 10 [])).pcWord = -1 ∧ (poised 0xFD5FF0EF#32 10 []).pcWord = 10 ∧
    step (poised 0xFD5FF0EF#32 10 []) = .next (next (poised 0xFD5FF0EF#32 10 [])) :=
  ⟨by decide, by decide, by decide, by decide, rfl⟩

theorem witness_RunningOffTheEndHalts :
    (next (poised 0x13#32 0 [])).ConfigInRange ∧ (next (poised 0x13#32 0 [])).status = .running ∧
    (next (poised 0x13#32 0 [])).pcWord = (next (poised 0x13#32 0 [])).cfg.prog.length ∧ (next (poised 0x13#32 0 [])).pcWord = 1 ∧
    (vectorConfig []).InRange ∧ (vectorConfig []).prog = [] := by decide

theorem witness_UnrecognisedWordIsAReportedNoOp :
    (poised 0x0000007F#32 5 []).Fetches 0x0000007F#32 ∧ decode 0x0000007F#32 = .error .unknownOpcode := by
  unfold State.Fetches; decide

/-- The largest memory of R6 is in range, one byte more is not, and no memory at all is not. -/
theorem witness_EveryStepAnswersNext :
    (State.resetWith { vectorConfig [] with memSize := 2 ^ 31 }).ConfigInRange ∧
    ¬ (State.resetWith { vectorConfig [] with memSize := 2 ^ 31 + 1 }).ConfigInRange ∧
    ¬ (State.resetWith { vectorConfig [] with memSize := 0 }).ConfigInRange := by decide

theorem vectorConfig_wellFormed : (vectorConfig loadBytes).WellFormed :=
  ⟨by decide, by decide, by decide⟩

theorem idle_inv : (idle loadBytes).Inv :=
  ⟨vectorConfig_wellFormed, by decide, by decide, by decide, by decide, by decide, trivial, rfl⟩

theorem witness_EveryStepKeepsTheInvariant : (idle loadBytes).Inv ∧ step (idle loadBytes) = .next (next (idle loadBytes)) :=
  ⟨idle_inv, rfl⟩

/-- A state of the invariant whose step executes a load. -/
theorem witness_EveryStepKeepsTheInvariant_running :
    (poised 0x00132383#32 0 [(6, 0x100)] loadBytes).Inv ∧ (poised 0x00132383#32 0 [(6, 0x100)] loadBytes).Fetches 0x00132383#32 :=
  ⟨⟨⟨by decide, by decide, by decide⟩, by decide, by decide, by decide,
    by decide, by decide, trivial, rfl⟩, by unfold State.Fetches; decide⟩

theorem witness_ResetMeetsTheInvariant : (vectorConfig loadBytes).WellFormed ∧ (next (idle loadBytes)).cfg.WellFormed :=
  ⟨vectorConfig_wellFormed, ⟨by decide, by decide, by decide⟩⟩

theorem witness_ResetValues : (vectorConfig []).memInit = [] ∧ (31#5 : Reg) ≠ 2#5 := by decide

/-- A step that executes and goes on, one that fetches nothing, one that fails. -/
theorem witness_ClampAfterEveryExecutedInstruction :
    (poised 0x00128013#32 0 [(5, 7)]).Fetches 0x00128013#32 ∧ (next (poised 0x00128013#32 0 [(5, 7)])).status = .running ∧
    (idle []).cfg.prog = [] ∧
    (poised 0x00030383#32 0 [(6, 0x400)]).Fetches 0x00030383#32 ∧
    (next (poised 0x00030383#32 0 [(6, 0x400)])).status = .faulted .outOfBoundsMemoryAccess 0 := by
  unfold State.Fetches; decide

theorem witness_ConfigurationNeverChanges : (idle []).Reaches (next (next (idle []))) := .step (.step .here rfl) rfl

theorem witness_OnlyStoresChangeMemory :
    (poised 0x00530023#32 0 [(6, 0x3FF), (5, 0xFF)]).mem.wf = true ∧
    (next (poised 0x00530023#32 0 [(6, 0x3FF), (5, 0xFF)])).byteAt 1023 ≠ (poised 0x00530023#32 0 [(6, 0x3FF), (5, 0xFF)]).byteAt 1023 := by
  decide

theorem witness_OnlyEnvironmentCallsAppendOutput :
    step (poised 0x00000073#32 0 [(10, 11), (11, 0x41)]) = .next (next (poised 0x00000073#32 0 [(10, 11), (11, 0x41)])) ∧
    (next (poised 0x00000073#32 0 [(10, 11), (11, 0x41)])).out = [.printChar 0x41#32] := ⟨rfl, by decide⟩

/-- Each of the four events is some step's result. -/
theorem witness_EventsRecordOnlyTheirIndex :
    (next (poised 0x7F#32 5 [])).result = some (.report .decodeUnknownOpcode 5) ∧
    (next (poised 0x73#32 7 [(10, 2)])).result = some (.report .unimplementedEnvironmentCall 7) ∧
    (next (poised 0x00032383#32 0 [(6, 0x3FD)])).result = some (.fatal .outOfBoundsMemoryAccess 0) ∧
    (next (next (poised 0xFD5FF0EF#32 10 []))).result = some (.fatal .pcOutOfRange (-1)) := by decide

theorem witness_PcWordMovesByOneUnlessControlTransfers :
    (∃ t, exec (.sw 5#5 6#5 0#12) (idle []) = .next t ∧ t.pcWord = 1) ∧
    ∃ t, exec (.beq 0#5 0#5 8#13) (idle []) = .next t ∧ t.pcWord = 2 := ⟨⟨_, rfl, by decide⟩, _, rfl, by decide⟩

theorem witness_RegistersChangeOnlyAsDestination :
    ∃ t, exec (.lui 5#5 0x12345#20) (idle []) = .next t ∧ t.readReg 5#5 ≠ (idle []).readReg 5#5 := ⟨_, rfl, by decide⟩

/-- A register that is neither read nor written, and one that is written but not read. -/
theorem witness_EffectDependsOnlyOnSourceRegisters :
    (7#5 : Reg) ∉ (Instr.ecall 0#5 0#5).sources ((idle []).readReg 10#5) ∧ (3#5 : Reg) ∉ (Instr.add 3#5 1#5 2#5).sources 0#32 ∧
    (Instr.add 3#5 1#5 2#5).destination = some 3#5 ∧ ∃ t, exec (.add 3#5 1#5 2#5) (idle []) = .next t := by
  refine ⟨by decide, by decide, rfl, _, rfl⟩

theorem witness_OutputHistoryIsNeverRead : step (idle []) = .next (next (idle [])) := rfl

theorem witness_StoredValueOfX0IsInvisible :
    (poised 0x00128013#32 0 [(5, 7)]).Fetches 0x00128013#32 ∧
    step (poised 0x00128013#32 0 [(5, 7)]) = .next (next (poised 0x00128013#32 0 [(5, 7)])) ∧
    ∀ k n, (next (poised 0x00128013#32 0 [(5, 7)])).status ≠ .faulted k n := by
  refine ⟨by unfold State.Fetches; decide, rfl, fun k n h => ?_⟩
  have e : (next (poised 0x00128013#32 0 [(5, 7)])).status = .running := by decide
  rw [e] at h
  cases h

theorem witness_RegisterShiftsUseLowFiveBits :
    ((poised 0x002091B3#32 0 [(2, 0xFFFFFFFF)]).readReg 2#5).toNat % 32 = 31 ∧
    ((poised 0x002091B3#32 0 [(2, 32)]).readReg 2#5).toNat % 32 = 0 := by decide

/-- With 1024 bytes the last access of 1, 2 and 4 bytes starts at 1023, 1022 and 1020; one byte further it is out of bounds. -/
theorem witness_MemReadIsLittleEndian : (idle []).cfg.memSize = 1024 ∧ (1023#32 : Word).toNat + 1 ≤ 1024 ∧
    (1022#32 : Word).toNat + 2 ≤ 1024 ∧ (1020#32 : Word).toNat + 4 ≤ 1024 ∧ 1024 < (1021#32 : Word).toNat + 4 := by decide

theorem witness_NarrowReadAfterWideWrite :
    (idle loadBytes).ConfigInRange ∧ (idle loadBytes).mem.wf = true ∧
    (∃ t, (idle loadBytes).memWrite 1020#32 4 0x11223344#32 = some t) ∧ 3 + 1 ≤ 4 ∧ 0 + 4 ≤ 4 :=
  ⟨by decide, by decide, ⟨_, rfl⟩, by decide, by decide⟩

theorem witness_LoadByteSignedAndUnsigned :
    ((poised 0x13#32 0 [(6, 1023)]).effectiveAddress 6#5 0#12).toNat < (poised 0x13#32 0 [(6, 1023)]).cfg.memSize ∧
    (poised 0x13#32 0 [(6, 1023)]).cfg.memSize ≤ ((poised 0x13#32 0 [(6, 1023)]).effectiveAddress 6#5 1#12).toNat := by decide

theorem witness_LoadHalfwordSignedAndUnsigned :
    ((poised 0x13#32 0 [(6, 1022)]).effectiveAddress 6#5 0#12).toNat + 2 ≤ (poised 0x13#32 0 [(6, 1022)]).cfg.memSize ∧
    (poised 0x13#32 0 [(6, 1022)]).cfg.memSize < ((poised 0x13#32 0 [(6, 1022)]).effectiveAddress 6#5 1#12).toNat + 2 := by
  decide

theorem witness_LoadWordAtAnyAlignment :
    ((poised 0x13#32 0 [(6, 1020)]).effectiveAddress 6#5 0#12).toNat + 4 ≤ (poised 0x13#32 0 [(6, 1020)]).cfg.memSize ∧
    (poised 0x13#32 0 [(6, 1020)]).cfg.memSize < ((poised 0x13#32 0 [(6, 1020)]).effectiveAddress 6#5 1#12).toNat + 4 := by
  decide

/-- The base 1020 with displacements 0 to 4 meets every clause, each at the end of its range. -/
theorem witness_StoresWriteExactlyTheirBytes :
    (poised 0x13#32 0 [(6, 1020)] loadBytes).mem.wf = true ∧ (poised 0x13#32 0 [(6, 1020)] loadBytes).cfg.memSize = 1024 ∧
    ((poised 0x13#32 0 [(6, 1020)] loadBytes).effectiveAddress 6#5 0#12).toNat + 4 = 1024 ∧
    ((poised 0x13#32 0 [(6, 1020)] loadBytes).effectiveAddress 6#5 1#12).toNat + 4 = 1025 ∧
    ((poised 0x13#32 0 [(6, 1020)] loadBytes).effectiveAddress 6#5 2#12).toNat + 2 = 1024 ∧
    ((poised 0x13#32 0 [(6, 1020)] loadBytes).effectiveAddress 6#5 3#12).toNat + 2 = 1025 ∧
    ((poised 0x13#32 0 [(6, 1020)] loadBytes).effectiveAddress 6#5 3#12).toNat + 1 = 1024 ∧
    ((poised 0x13#32 0 [(6, 1020)] loadBytes).effectiveAddress 6#5 4#12).toNat + 1 = 1025 := by decide

theorem witness_StoreThenLoadReturnsTheWord :
    (poised 0x13#32 0 [(6, 1020)]).mem.wf = true ∧ (7#5 : Reg) ≠ 0#5 ∧
    ((poised 0x13#32 0 [(6, 1020)]).effectiveAddress 6#5 0#12).toNat + 4 ≤ (poised 0x13#32 0 [(6, 1020)]).cfg.memSize := by
  decide

/-- For the three branch obligations and JAL: the offsets at both ends of the ranges. -/
theorem witness_Branches_and_Jal : (4094#13 : BitVec 13).getLsbD 0 = false ∧ (-4096#13 : BitVec 13).getLsbD 0 = false ∧
    (1048574#21 : BitVec 21).getLsbD 0 = false ∧ (-1048576#21 : BitVec 21).getLsbD 0 = false := by decide

/-- Each of the three cases of R27, for both signs where the case has both. -/
theorem witness_Sdiv4RoundsTowardZero : (8#32 : Word).toInt % 4 = 0 ∧ (-8#32 : Word).toInt % 4 = 0 ∧
    0 ≤ (6#32 : Word).toInt ∧ (6#32 : Word).toInt % 4 = 2 ∧ (-6#32 : Word).toInt < 0 ∧ (-6#32 : Word).toInt % 4 = 2 := by decide

/-- Both ends of the range of indices. -/
theorem witness_CallThenReturnReachesTheNextWord : (1#5 : Reg) ≠ 0#5 ∧ 0 ≤ (idle []).pcWord ∧ (idle []).pcWord < 2 ^ 29 - 1 ∧
    (0 : Int) ≤ 2 ^ 29 - 2 ∧ (2 : Int) ^ 29 - 2 < 2 ^ 29 - 1 := by decide

theorem witness_EcallPrintsIntegerAndCharacter : (poised 0x73#32 0 [(10, 1)]).readReg 10#5 = 1#32 ∧
    (poised 0x73#32 0 [(10, 11)]).readReg 10#5 = 11#32 := by decide

/-- A string of three bytes, the empty string at the last byte, and a string that runs off the end of the memory. -/
theorem witness_EcallPrintsStringUpToZero :
    (poised 0x73#32 0 [(10, 4), (11, 0x100)] textBytes).ConfigInRange ∧
    (poised 0x73#32 0 [(10, 4), (11, 0x100)] textBytes).readReg 10#5 = 4#32 ∧
    ((poised 0x73#32 0 [(10, 4), (11, 0x100)] textBytes).readReg 11#5).toNat = 0x100 ∧
    (∀ i : Nat, i < 3 → (poised 0x73#32 0 [(10, 4), (11, 0x100)] textBytes).byteAt (0x100 + i) ≠ 0#8) ∧
    (poised 0x73#32 0 [(10, 4), (11, 0x100)] textBytes).byteAt (0x100 + 3) = 0#8 ∧
    (poised 0x73#32 0 [(10, 4), (11, 1023)]).byteAt (1023 + 0) = 0#8 ∧
    (∀ n : Nat, 1021 + n < 1024 → (poised 0x73#32 0 [(10, 4), (11, 1021)] textBytes).byteAt (1021 + n) ≠ 0#8) := by
  refine ⟨by decide, by decide, by decide, by decide, by decide, by decide, ?_⟩
  intro n h
  have e : ∀ n : Nat, n < 3 → (poised 0x73#32 0 [(10, 4), (11, 1021)] textBytes).byteAt (1021 + n) ≠ 0#8 := by decide
  exact e n (by omega)

theorem witness_EcallExits : (poised 0x73#32 0 [(10, 10)]).readReg 10#5 = 10#32 ∧
    (poised 0x73#32 0 [(10, 17)]).readReg 10#5 = 17#32 := by decide

theorem witness_EcallReservedAndUnknownCodes : (poised 0x73#32 0 [(10, 9)]).readReg 10#5 = 9#32 ∧
    ((poised 0x73#32 0 [(10, 0x10A)]).readReg 10#5 ∉ [1#32, 4#32, 9#32, 10#32, 11#32, 17#32]) ∧
    ((poised 0x73#32 0 []).readReg 10#5 ∉ [1#32, 4#32, 9#32, 10#32, 11#32, 17#32]) := by decide

theorem witness_RegisterDumpIsBigEndian : (31 : Nat) < 32 ∧ (3 : Nat) < 4 := by decide

theorem witness_ProgramImageIsBigEndian : programOfImage [0x00, 0xA0, 0x02, 0x93, 0xFF, 0xF2, 0x82, 0x93]
    = some [0x00A00293#32, 0xFFF28293#32] := by decide

end Sys2Proof.Tests
end

section
/-! SUPPORT. Which outcome a step has (40_engine.md R123): one equation per branch of `step`, and that a step under a configuration
in the ranges of 00_scope.md R6 always has a next state. -/

namespace Sys2Proof.Machine

variable {s : State}

/-- S10, S11: the one refusal of the engine. -/
theorem step_of_not_configInRange (hc : ¬ s.ConfigInRange) : step s = .refused .configurationOutOfRange := by
  rw [step, if_neg hc]

/-- R123 lines 0 to 2: a step that executes no word. -/
theorem step_of_fetchOrEnd_error {t : State} (hc : s.ConfigInRange) (he : s.fetchOrEnd = .error t) :
    step s = .next t := by
  rw [step, if_pos hc, he]

/-- R123 lines 3 to 5: a step that executes the word `w`, whose handler leaves `u`. -/
theorem step_of_fetchOrEnd_ok {w : Word} {u : State} (hc : s.ConfigInRange) (hw : s.fetchOrEnd = .ok w)
    (hu : execWord w s.beginHandler = .next u) : step s = .next u.endHandler := by
  rw [step, if_pos hc, hw]
  simp only [hu, afterHandler]

/-- No step faults: a fetch that ends the step gives its state, and the handler of a fetched word answers one. -/
theorem exists_step_next (hc : s.ConfigInRange) : ∃ t, step s = .next t := by
  cases hf : s.fetchOrEnd with
  | error t => exact ⟨t, step_of_fetchOrEnd_error hc hf⟩
  | ok w =>
    obtain ⟨u, hu, _⟩ := execWord_next s.beginHandler w
    exact ⟨u.endHandler, step_of_fetchOrEnd_ok hc hf hu⟩

end Sys2Proof.Machine
end

section
/-! The statements of 00_scope.md. -/

namespace Sys2Proof.Machine

/-- Settles O14: in range by totality of the fetch and of the handlers, out of range by the guard of `step`. -/
theorem everyStepAnswersNext : Obligations.EveryStepAnswersNext :=
  fun _ => ⟨exists_step_next, step_of_not_configInRange⟩

end Sys2Proof.Machine
end

section
/-! SUPPORT. What the shared operations, an instruction and the end of a handler leave of each field, and which states a step
reaches from a state that executes a word. -/

namespace Sys2Proof.Machine

variable {s : State}

/-! ### The fields after the shared operations -/

@[simp] theorem State.writeResult_cfg (rd : Reg) (v : Word) : (s.writeResult rd v).cfg = s.cfg := by simp [State.writeResult]
@[simp] theorem State.writeResult_pcWord (rd : Reg) (v : Word) : (s.writeResult rd v).pcWord = s.pcWord + 1 := by
  simp [State.writeResult]
@[simp] theorem State.writeResult_mem (rd : Reg) (v : Word) : (s.writeResult rd v).mem = s.mem := by simp [State.writeResult]
@[simp] theorem State.writeResult_status (rd : Reg) (v : Word) : (s.writeResult rd v).status = s.status := by
  simp [State.writeResult]
@[simp] theorem State.writeResult_out (rd : Reg) (v : Word) : (s.writeResult rd v).out = s.out := by simp [State.writeResult]
@[simp] theorem State.writeResult_result (rd : Reg) (v : Word) : (s.writeResult rd v).result = s.result := by
  simp [State.writeResult]
@[simp] theorem State.writeResult_stored (rd : Reg) (v : Word) : (s.writeResult rd v).regs[0] = s.regs[0] := by
  simp [State.writeResult]
@[simp] theorem State.endHandler_cfg : s.endHandler.cfg = s.cfg := by obtain h | h := endHandler_cases s <;> simp [h]
@[simp] theorem State.endHandler_pcWord : s.endHandler.pcWord = s.pcWord := by obtain h | h := endHandler_cases s <;> simp [h]
@[simp] theorem State.endHandler_mem : s.endHandler.mem = s.mem := by obtain h | h := endHandler_cases s <;> simp [h]
@[simp] theorem State.endHandler_status : s.endHandler.status = s.status := by obtain h | h := endHandler_cases s <;> simp [h]
@[simp] theorem State.endHandler_out : s.endHandler.out = s.out := by obtain h | h := endHandler_cases s <;> simp [h]
@[simp] theorem State.endHandler_result : s.endHandler.result = s.result := by obtain h | h := endHandler_cases s <;> simp [h]
@[simp] theorem readReg_endHandler (r : Reg) : s.endHandler.readReg r = s.readReg r := by
  obtain h | h := endHandler_cases s <;> simp [h]

/-- R127: the clamp changes nothing where the stored value of x0 is 0 already. -/
theorem endHandler_of_stored (h : s.regs[0] = 0#32) : s.endHandler = s := by
  obtain he | he := endHandler_cases s
  · exact he
  · rw [he, clampX0_of_stored s h]

/-- R127: the clamp runs after every handler that did not raise. -/
theorem endHandler_of_not_faulted (h : ∀ k n, s.status ≠ .faulted k n) : s.endHandler = s.clampX0 := by
  unfold State.endHandler
  cases hs : s.status with
  | running => rfl
  | halted c => rfl
  | faulted k n => exact absurd hs (h k n)

/-! ### The fields after an instruction -/

variable {i : Instr} {t : State}

/-- R20: no instruction changes the configuration. -/
theorem ExecEffect.cfg_eq (h : ExecEffect i s t) : t.cfg = s.cfg := by cases h <;> simp

/-! ### The step that executes a word -/

/-- R123 lines 0 to 2: a fetch is what `State.Fetches` says of a state. -/
theorem fetches_of_fetchOrEnd_ok {w : Word} (hc : s.ConfigInRange) (h : s.fetchOrEnd = .ok w) : s.Fetches w := by
  obtain ⟨hs, hp, _, hw⟩ := fetchOrEnd_ok s h
  exact ⟨hc, hs, hp, hw⟩

theorem fetchOrEnd_of_fetches {w : Word} (h : s.Fetches w) : s.fetchOrEnd = .ok w := by
  obtain ⟨_, hs, hp, hw⟩ := h
  exact fetchOrEnd_of_fetch s hs hp hw

theorem State.Fetches.pcWord_lt {w : Word} (h : s.Fetches w) : s.pcWord < s.cfg.prog.length := by
  obtain ⟨_, _, hlt, _⟩ := fetchOrEnd_ok s (fetchOrEnd_of_fetches h)
  exact hlt

/-- R123, R126: a step that executes the word `w` ends the handler of an instruction or of the reported no-op. -/
theorem step_next_of_fetches {w : Word} (hf : s.Fetches w) (h : step s = .next t) :
    ∃ u, t = u.endHandler ∧
      ((∃ i, decode w = .ok i ∧ exec i s.beginHandler = .next u) ∨
        ((∃ e, decode w = .error e) ∧ u = (s.beginHandler.report .decodeUnknownOpcode).advance)) := by
  obtain ⟨u, hu, hcases⟩ := execWord_next s.beginHandler w
  rw [step_of_fetchOrEnd_ok hf.1 (fetchOrEnd_of_fetches hf) hu] at h
  obtain rfl := Host.Outcome.next.inj h
  exact ⟨u, rfl, hcases⟩

/-- R123: a step that executes no word changes only the status and the result. -/
theorem step_next_cases (h : step s = .next t) :
    (s.status ≠ .running ∧ t = s.stopped) ∨
      (s.status = .running ∧ s.pcWord < 0 ∧ t = s.raise .pcOutOfRange) ∨
      (s.status = .running ∧ (s.cfg.prog.length : Int) ≤ s.pcWord ∧ t = s.runOffEnd) ∨
      ∃ w, s.Fetches w := by
  obtain ⟨hc, hstop | hneg | hend | ⟨w, u, hw, _⟩⟩ := step_next s h
  · exact .inl hstop
  · exact .inr (.inl hneg)
  · exact .inr (.inr (.inl hend))
  · exact .inr (.inr (.inr ⟨w, fetches_of_fetchOrEnd_ok hc hw⟩))

end Sys2Proof.Machine
end

section
/-! SUPPORT. The invariant (10_state.md R40): a state that differs only in pc_word, status and result keeps it when the three
agree, and every instruction keeps it from a running state inside the program. -/

namespace Sys2Proof.Machine

variable {s t : State}

/-- What a change of pc_word, status, result and output alone owes the invariant. -/
theorem State.Inv.of_frame (hs : s.Inv) (hcfg : t.cfg = s.cfg) (hx0 : t.regs[0] = s.regs[0]) (hmem : t.mem = s.mem)
    (hlo : -(2 : Int) ^ 29 ≤ t.pcWord) (hhi : t.pcWord < (2 : Int) ^ 29 + 2 ^ 18) (hst : t.StatusAgrees)
    (hres : t.ResultAgrees) : t.Inv where
  config := hcfg ▸ hs.config
  x0Clear := hx0.trans hs.x0Clear
  memCanonical := hmem ▸ hs.memCanonical
  memInside := by rw [hmem, hcfg]; exact hs.memInside
  pcLow := hlo
  pcHigh := hhi
  statusAgrees := hst
  resultAgrees := hres

/-- R335: a running state says nothing of pc_word. -/
theorem statusAgrees_of_running (h : s.status = .running) : s.StatusAgrees := by simp [State.StatusAgrees, h]

/-- R128: the result Ok stands with the status Running. -/
theorem resultAgrees_of_ok (h : s.status = .running) (hr : s.result = some .ok) : s.ResultAgrees := by
  simp [State.ResultAgrees, h, hr]

/-- R128: the result of a report stands with the status Running. -/
theorem resultAgrees_of_report {k : ErrorKind} {n : Int} (h : s.status = .running) (hr : s.result = some (.report k n)) :
    s.ResultAgrees := by
  simp [State.ResultAgrees, h, hr]

/-- The same where the run goes on with the result Ok. -/
theorem State.Inv.of_continue (hs : s.Inv) (hcfg : t.cfg = s.cfg) (hx0 : t.regs[0] = s.regs[0]) (hmem : t.mem = s.mem)
    (hlo : -(2 : Int) ^ 29 ≤ t.pcWord) (hhi : t.pcWord < (2 : Int) ^ 29 + 2 ^ 18) (hrun : t.status = .running)
    (hok : t.result = some .ok) : t.Inv :=
  hs.of_frame hcfg hx0 hmem hlo hhi (statusAgrees_of_running hrun) (resultAgrees_of_ok hrun hok)

/-- D21: a stopped engine keeps the invariant. -/
theorem inv_stopped (hs : s.Inv) (h : s.status ≠ .running) : s.stopped.Inv :=
  hs.of_frame rfl rfl rfl hs.pcLow hs.pcHigh hs.statusAgrees h

/-- R287: the failure at a negative index keeps the invariant. -/
theorem inv_raise_pcOutOfRange (hs : s.Inv) (h : s.pcWord < 0) : (s.raise .pcOutOfRange).Inv :=
  hs.of_frame rfl rfl rfl hs.pcLow hs.pcHigh ⟨rfl, h⟩ rfl

/-- R125: running off the end keeps the invariant. -/
theorem inv_runOffEnd (hs : s.Inv) (h : (s.cfg.prog.length : Int) ≤ s.pcWord) : s.runOffEnd.Inv :=
  hs.of_frame rfl rfl rfl hs.pcLow hs.pcHigh h rfl

/-- R123 line 3: the state a handler starts from meets the invariant. -/
theorem inv_beginHandler (hs : s.Inv) (h : s.status = .running) : s.beginHandler.Inv :=
  hs.of_frame rfl rfl rfl hs.pcLow hs.pcHigh (statusAgrees_of_running h) (resultAgrees_of_ok h rfl)

/-- R28: one past an index of the program is within the bounds of pc_word. -/
theorem succ_pcWord_bounds (hs : s.Inv) (hp : 0 ≤ s.pcWord) (hl : s.pcWord < s.cfg.prog.length) :
    -(2 : Int) ^ 29 ≤ s.pcWord + 1 ∧ s.pcWord + 1 < (2 : Int) ^ 29 + 2 ^ 18 := by
  obtain ⟨_, _, hprog⟩ := hs.config.inRange
  omega

/-- Every instruction executed inside the program keeps the invariant. -/
theorem ExecEffect.inv {i : Instr} (he : ExecEffect i s t) (hs : s.Inv) (hrun : s.status = .running)
    (hok : s.result = some .ok) (hp : 0 ≤ s.pcWord) (hl : s.pcWord < s.cfg.prog.length) : t.Inv := by
  obtain ⟨hlo1, hhi1⟩ := succ_pcWord_bounds hs hp hl
  obtain ⟨_, _, hprog⟩ := hs.config.inRange
  cases he with
  | raised => exact hs.of_frame rfl rfl rfl hs.pcLow hs.pcHigh ⟨rfl, hp, hl⟩ rfl
  | wrote rd v => exact hs.of_continue (by simp) (by simp) (by simp) (by simpa) (by simpa) (by simpa) (by simpa)
  | stored addr v n _ _ hb =>
    exact
      { config := hs.config
        x0Clear := hs.x0Clear
        memCanonical := Memory.wf_writeLE hs.memCanonical _ _ _
        memInside := Memory.below_writeLE hs.memInside _ _ _ hb
        pcLow := hlo1
        pcHigh := hhi1
        statusAgrees := statusAgrees_of_running hrun
        resultAgrees := resultAgrees_of_ok hrun hok }
  | branched d _ hlo hhi => exact hs.of_continue rfl rfl rfl (by simp; omega) (by simp; omega) hrun hok
  | jumped rd d _ _ hlo hhi =>
    exact hs.of_continue (by simp) (by simp) (by simp) (by simp; omega) (by simp; omega) (by simpa) (by simpa)
  | jumpedTo rd p _ _ hlo hhi =>
    exact hs.of_continue (by simp) (by simp) (by simp) (by simpa) (by simp; omega) (by simpa) (by simpa)
  | advanced => exact hs.of_continue rfl rfl rfl hlo1 hhi1 hrun hok
  | emitted e => exact hs.of_continue rfl rfl rfl hlo1 hhi1 hrun hok
  | halted c => exact hs.of_frame rfl rfl rfl hlo1 hhi1 ⟨by simp; omega, by simp; omega⟩ rfl
  | reported =>
    exact hs.of_frame rfl rfl rfl hlo1 hhi1 (statusAgrees_of_running hrun) (resultAgrees_of_report hrun rfl)

/-- R130: the reported no-op inside the program keeps the invariant. -/
theorem inv_report_advance (hs : s.Inv) (hrun : s.status = .running) (hp : 0 ≤ s.pcWord) (hl : s.pcWord < s.cfg.prog.length)
    (k : ErrorKind) : (s.report k).advance.Inv := by
  obtain ⟨hlo, hhi⟩ := succ_pcWord_bounds hs hp hl
  exact hs.of_frame rfl rfl rfl hlo hhi (statusAgrees_of_running hrun) (resultAgrees_of_report hrun rfl)

/-- A step that executes a word keeps the invariant; the clamp finds the stored x0 clear and changes nothing. -/
theorem inv_step_of_fetches {w : Word} (hs : s.Inv) (hf : s.Fetches w) (h : step s = .next t) : t.Inv := by
  obtain ⟨u, rfl, hcases⟩ := step_next_of_fetches hf h
  have hlt := hf.pcWord_lt
  obtain ⟨_, hrun, hp, _⟩ := hf
  have hb := inv_beginHandler hs hrun
  have hu : u.Inv := by
    obtain ⟨i, _, he⟩ | ⟨_, rfl⟩ := hcases
    · exact (exec_next _ he).inv hb hrun rfl hp hlt
    · exact inv_report_advance hb hrun hp hlt _
  rw [endHandler_of_stored hu.x0Clear]
  exact hu

/-- Settles O15, by the cases of a step: stopped, failed at a negative index, run off the end, or one word executed. -/
theorem everyStepKeepsTheInvariant : Obligations.EveryStepKeepsTheInvariant := by
  intro s t hs h
  obtain ⟨hstop, rfl⟩ | ⟨_, hneg, rfl⟩ | ⟨_, hend, rfl⟩ | ⟨w, hf⟩ := step_next_cases h
  · exact inv_stopped hs hstop
  · exact inv_raise_pcOutOfRange hs hneg
  · exact inv_runOffEnd hs hend
  · exact inv_step_of_fetches hs hf h

end Sys2Proof.Machine
end

section
/-! What no run changes, and what an instruction may change of the output, pc_word and the registers. -/

namespace Sys2Proof.Machine

variable {s t : State} {i : Instr}

/-! ### The configuration -/

/-- R20: no step changes the configuration. -/
theorem step_cfg (h : step s = .next t) : t.cfg = s.cfg := by
  obtain ⟨_, rfl⟩ | ⟨_, _, rfl⟩ | ⟨_, _, rfl⟩ | ⟨w, hf⟩ := step_next_cases h
  · rfl
  · rfl
  · rfl
  · obtain ⟨u, rfl, ⟨i, _, he⟩ | ⟨_, rfl⟩⟩ := step_next_of_fetches hf h
    · simpa using (exec_next _ he).cfg_eq
    · simp

/-- Settles O19, by induction on the number of steps. -/
theorem configurationNeverChanges : Obligations.ConfigurationNeverChanges := by
  intro s t h
  induction h with
  | here => rfl
  | step _ last ih => exact (step_cfg last).trans ih

/-! ### The output -/

@[simp] theorem State.loadInto_out (rd rs1 : Reg) (imm : BitVec 12) (n : Nat) (ext : Word → Word) :
    (s.loadInto rd rs1 imm n ext).out = s.out := by
  unfold State.loadInto; split <;> simp

@[simp] theorem State.storeFrom_out (rs2 rs1 : Reg) (imm : BitVec 12) (n : Nat) : (s.storeFrom rs2 rs1 imm n).out = s.out := by
  by_cases h : s.InBounds (s.effectiveAddress rs1 imm) n
  · simp [storeFrom_inBounds s rs2 rs1 imm n h]
  · simp [storeFrom_outOfBounds s rs2 rs1 imm n h]

@[simp] theorem State.branchOn_out (taken : Bool) (offset : BitVec 13) : (s.branchOn taken offset).out = s.out := by
  cases taken <;> rfl

/-- R251 on words: the signed reading of x10 is one of the codes exactly when x10 is that word. -/
theorem environmentCall_eq (s : State) : s.environmentCall =
    if s.readReg 10#5 = 1#32 then s.servicePrintInt
    else if s.readReg 10#5 = 4#32 then s.servicePrintString
    else if s.readReg 10#5 = 9#32 then s.serviceReserved
    else if s.readReg 10#5 = 10#32 then s.serviceExit
    else if s.readReg 10#5 = 11#32 then s.servicePrintChar
    else if s.readReg 10#5 = 17#32 then s.serviceExitCode
    else s.serviceUnknown := by
  have code (w : Word) : (s.readReg 10#5).toInt = w.toInt ↔ s.readReg 10#5 = w := BitVec.toInt_inj
  unfold State.environmentCall
  simp only [← code]
  rfl

/-- R252 to R258: the services 1, 4 and 11 are the ones that emit, one event each. -/
theorem environmentCall_out (s : State) : s.environmentCall.out = s.out ∨
    ∃ e, s.environmentCall.out = s.out ++ [e] ∧
      (s.readReg 10#5 = 1#32 ∨ s.readReg 10#5 = 4#32 ∨ s.readReg 10#5 = 11#32) := by
  rw [environmentCall_eq]
  split_ifs with h1 h4 h9 h10 h11 h17
  · exact .inr ⟨_, rfl, .inl h1⟩
  · unfold State.servicePrintString
    split
    · exact .inl rfl
    · exact .inr ⟨_, rfl, .inr (.inl h4)⟩
  · exact .inl rfl
  · exact .inl rfl
  · exact .inr ⟨_, rfl, .inr (.inr h11)⟩
  · exact .inl rfl
  · exact .inl rfl

/-- R36: only ECALL emits. -/
theorem exec_out_of_ne_ecall (hi : ∀ rs1 rd, i ≠ .ecall rs1 rd) (h : exec i s = .next t) : t.out = s.out := by
  cases i
  case ecall rs1 rd => exact absurd rfl (hi rs1 rd)
  all_goals
    obtain rfl := Host.Outcome.next.inj h
    simp

/-- R36, R251: an instruction leaves OUT alone or is an ECALL that emits one event. -/
theorem exec_out (h : exec i s = .next t) : t.out = s.out ∨
    ∃ e rs1 rd, t.out = s.out ++ [e] ∧ i = .ecall rs1 rd ∧
      (s.readReg 10#5 = 1#32 ∨ s.readReg 10#5 = 4#32 ∨ s.readReg 10#5 = 11#32) := by
  by_cases hi : ∃ rs1 rd, i = .ecall rs1 rd
  · obtain ⟨rs1, rd, rfl⟩ := hi
    obtain rfl := Host.Outcome.next.inj h
    obtain hout | ⟨e, hout, hcode⟩ := environmentCall_out s
    · exact .inl hout
    · exact .inr ⟨e, rs1, rd, hout, rfl, hcode⟩
  · exact .inl (exec_out_of_ne_ecall (fun rs1 rd he => hi ⟨rs1, rd, he⟩) h)

/-- Settles O21: a step that executes no word emits nothing, one that does emits what its instruction emits. -/
theorem onlyEnvironmentCallsAppendOutput : Obligations.OnlyEnvironmentCallsAppendOutput := by
  intro s t h
  obtain ⟨_, rfl⟩ | ⟨_, _, rfl⟩ | ⟨_, _, rfl⟩ | ⟨w, hf⟩ := step_next_cases h
  · exact .inl rfl
  · exact .inl rfl
  · exact .inl rfl
  · obtain ⟨u, rfl, ⟨i, hw, he⟩ | ⟨_, rfl⟩⟩ := step_next_of_fetches hf h
    · obtain hout | ⟨e, rs1, rd, hout, rfl, hcode⟩ := exec_out he
      · exact .inl (by simpa using hout)
      · exact .inr ⟨e, w, rs1, rd, by simpa using hout, hf, hw, hcode⟩
    · exact .inl (by simp)

/-! ### The program counter -/

/-- R25: the byte address of an index is four times it, modulo 2^32. -/
theorem byteAddress_toNat_mod_four (k : Int) : (byteAddress k).toNat % 4 = 0 := by
  unfold byteAddress
  rw [BitVec.toNat_ofInt]
  omega

/-- R26 (a): an instruction that is no control transfer and does not raise moves pc_word by one. -/
theorem ExecEffect.pcWord_of_not_controlTransfer (he : ExecEffect i s t) (hc : i.controlTransfer = false) :
    t.pcWord = s.pcWord + 1 ∨ FailsWith s t .outOfBoundsMemoryAccess := by
  cases he with
  | raised => exact .inr (raise_failsWith s _)
  | branched _ hc' => simp [hc] at hc'
  | jumped _ _ hc' => simp [hc] at hc'
  | jumpedTo _ _ hc' => simp [hc] at hc'
  | _ => exact .inl (by simp)

/-- Settles O23, by whether the instruction is a control transfer. -/
theorem pcWordMovesByOneUnlessControlTransfers : Obligations.PcWordMovesByOneUnlessControlTransfers := by
  refine ⟨fun i s t h => ?_, byteAddress_toNat_mod_four⟩
  cases hc : i.controlTransfer with
  | true => exact .inr (.inl rfl)
  | false =>
    obtain hpc | hfail := (exec_next s h).pcWord_of_not_controlTransfer hc
    · exact .inl ⟨rfl, hpc⟩
    · exact .inr (.inr hfail)

/-! ### The registers -/

/-- R22: a register write is seen only at its own register, and never at x0. -/
theorem readReg_writeReg_ne_self {rd r : Reg} {v : Word} (h : (s.writeReg rd v).readReg r ≠ s.readReg r) :
    r = rd ∧ r ≠ 0#5 := by
  rw [readReg_writeReg] at h
  split_ifs at h with hr
  · exact ⟨hr.1, hr.1 ▸ hr.2⟩
  · exact absurd rfl h

/-- Settles O24: of the shapes an instruction leaves, only those that write a destination are seen by a read. -/
theorem registersChangeOnlyAsDestination : Obligations.RegistersChangeOnlyAsDestination := by
  intro i s t r h hne
  cases exec_next s h with
  | wrote rd v hd =>
    obtain ⟨rfl, h0⟩ := readReg_writeReg_ne_self hne
    exact ⟨hd, h0⟩
  | jumped rd d _ hd =>
    obtain ⟨rfl, h0⟩ := readReg_writeReg_ne_self hne
    exact ⟨hd, h0⟩
  | jumpedTo rd p _ hd =>
    obtain ⟨rfl, h0⟩ := readReg_writeReg_ne_self hne
    exact ⟨hd, h0⟩
  | _ => exact absurd rfl hne

/-! ### Reset -/

/-- Settles O17: each field of the reset state, the registers by `readReg_resetWith`. -/
theorem resetValues : Obligations.ResetValues := by
  intro c
  refine ⟨by simp [readReg_resetWith], fun r hr => by simp [readReg_resetWith, hr], by simp [State.resetWith], rfl, rfl, rfl,
    fun _ => rfl, fun hinit a => ?_, rfl, rfl⟩
  simp [State.byteAt, State.resetWith, hinit, Memory.read, Memory.unlisted]

end Sys2Proof.Machine
end

section
/-! The division of branch and jump offsets (10_state.md R27). -/

namespace Sys2Proof.Machine

/-- R27 for a value that is not negative. -/
theorem sdiv4_of_nonneg {v : Word} (h : 0 ≤ v.toInt) : sdiv4 v = v.toInt / 4 :=
  Int.tdiv_eq_ediv_of_nonneg h

/-- R27 for a negative value: the quotient of its size, with the sign put back. -/
theorem sdiv4_of_neg {v : Word} (h : v.toInt < 0) : sdiv4 v = -(-v.toInt / 4) := by
  have hneg : (-v.toInt).tdiv 4 = -sdiv4 v := Int.neg_tdiv ..
  rw [Int.tdiv_eq_ediv_of_nonneg (by omega)] at hneg
  omega

/-- A word whose bit 0 is clear is even, also as a signed number. -/
theorem toInt_emod_two_of_getLsbD_zero {v : Word} (h : v.getLsbD 0 = false) : v.toInt % 2 = 0 := by
  have hbit : v.toNat % 2 = 0 := by simpa [BitVec.getLsbD, Nat.testBit_zero] using h
  rw [BitVec.toInt_eq_toNat_cond]
  split <;> omega

/-- R89: a branch offset is even, also after its sign extension. -/
theorem sext13_immFieldB_even (w : Word) : (sext13 (immFieldB w)).toInt % 2 = 0 :=
  toInt_emod_two_of_getLsbD_zero (by simp only [sext13, immFieldB, BitVec.getLsbD_signExtend, BitVec.getLsbD_append]; simp)

/-- R91: a JAL offset is even, also after its sign extension. -/
theorem sext21_immFieldJ_even (w : Word) : (sext21 (immFieldJ w)).toInt % 2 = 0 :=
  toInt_emod_two_of_getLsbD_zero (by simp only [sext21, immFieldJ, BitVec.getLsbD_signExtend, BitVec.getLsbD_append]; simp)

/-- R222: the sum of JALR is even once bit 0 is cleared. -/
theorem and_clearBit0_even (w : Word) : (w &&& 0xFFFFFFFE#32).toInt % 2 = 0 :=
  toInt_emod_two_of_getLsbD_zero (by simp)

/-- Settles O45, by the sign of the value. -/
theorem sdiv4RoundsTowardZero : Obligations.Sdiv4RoundsTowardZero := by
  refine ⟨fun v => ?_, by decide, by decide, by decide, by decide, by decide, by decide, by decide,
    fun w => ⟨sext13_immFieldB_even w, sext21_immFieldJ_even w, and_clearBit0_even w⟩⟩
  rcases lt_or_ge v.toInt 0 with h | h
  · rw [sdiv4_of_neg h]; omega
  · rw [sdiv4_of_nonneg h]; omega

end Sys2Proof.Machine
end

section
/-! SUPPORT. Two runs side by side: states that agree on everything but registers and output (`Alike`), and what a run from each
has in common when they agree on the registers that are read (`RunsAlike`). One lemma per shared operation, then `exec` and `step`. -/

namespace Sys2Proof.Machine

/-- `u` is `s` but for the registers and OUT. -/
structure Alike (s u : State) : Prop where
  cfg : u.cfg = s.cfg
  pcWord : u.pcWord = s.pcWord
  mem : u.mem = s.mem
  status : u.status = s.status
  result : u.result = s.result

/-- What leads `s` to `t` leads `u` to `v`: the same but for registers and OUT, the same events appended, a register that read alike
before reads alike after, and the register `d` that is written reads alike unless the write failed. -/
structure RunsAlike (d : Option Reg) (s t u v : State) : Prop where
  alike : Alike t v
  out : ∃ es : List Event, t.out = s.out ++ es ∧ v.out = u.out ++ es
  reads : ∀ q : Reg, u.readReg q = s.readReg q → v.readReg q = t.readReg q
  stored : u.regs[0] = s.regs[0] → v.regs[0] = t.regs[0]
  written : ∀ rd : Reg, d = some rd → ¬ FailsWith s t .outOfBoundsMemoryAccess → v.readReg rd = t.readReg rd

variable {s t u v : State}

/-! ### What alike states have in common -/

namespace Alike

theorem setPc (h : Alike s u) (p : Int) : Alike (s.setPc p) (u.setPc p) := ⟨h.cfg, rfl, h.mem, h.status, h.result⟩

theorem setMem (h : Alike s u) (m : Memory) : Alike (s.setMem m) (u.setMem m) := ⟨h.cfg, h.pcWord, rfl, h.status, h.result⟩

theorem setStatus (h : Alike s u) (st : Status) : Alike (s.setStatus st) (u.setStatus st) :=
  ⟨h.cfg, h.pcWord, h.mem, rfl, h.result⟩

theorem setResult (h : Alike s u) (r : Option StepResult) : Alike (s.setResult r) (u.setResult r) :=
  ⟨h.cfg, h.pcWord, h.mem, h.status, rfl⟩

theorem emit (h : Alike s u) (e : Event) : Alike (s.emit e) (u.emit e) := ⟨h.cfg, h.pcWord, h.mem, h.status, h.result⟩

theorem writeReg (h : Alike s u) (rd : Reg) (x : Word) : Alike (s.writeReg rd x) (u.writeReg rd x) :=
  ⟨by simp [h.cfg], by simp [h.pcWord], by simp [h.mem], by simp [h.status], by simp [h.result]⟩

theorem advance (h : Alike s u) : Alike s.advance u.advance := by
  unfold State.advance; rw [h.pcWord]; exact h.setPc _

theorem report (h : Alike s u) (k : ErrorKind) : Alike (s.report k) (u.report k) := by
  unfold State.report; rw [h.pcWord]; exact h.setResult _

theorem raise (h : Alike s u) (k : ErrorKind) : Alike (s.raise k) (u.raise k) := by
  unfold State.raise; rw [h.pcWord]; exact (h.setStatus _).setResult _

theorem halt (h : Alike s u) (c : Word) : Alike (s.halt c) (u.halt c) := (h.setStatus _).setResult _

theorem pc_eq (h : Alike s u) : u.pc = s.pc := by simp [State.pc, h.pcWord]

theorem link_eq (h : Alike s u) : u.link = s.link := by simp [State.link, h.pcWord]

theorem inBounds_iff (h : Alike s u) (addr : Word) (n : Nat) : u.InBounds addr n ↔ s.InBounds addr n := by
  rw [State.InBounds, h.cfg]

/-- R51: what a read of memory answers depends on no register and no output. -/
theorem memRead_eq (h : Alike s u) (addr : Word) (n : Nat) : u.memRead addr n = s.memRead addr n := by
  simp [State.memRead, h.cfg, h.mem]

/-- R253: a string depends on no register but the one that holds its address. -/
theorem readString_eq (h : Alike s u) (fuel : Nat) (p : Word) : u.readString fuel p = s.readString fuel p := by
  induction fuel generalizing p with
  | zero => rfl
  | succ fuel ih => simp only [State.readString, h.memRead_eq, ih]

theorem stringAt_eq (h : Alike s u) (p : Word) : u.stringAt p = s.stringAt p := by
  simp [State.stringAt, h.cfg, h.readString_eq]

theorem fetches (h : Alike s u) {w : Word} (hf : s.Fetches w) : u.Fetches w := by
  unfold State.Fetches State.ConfigInRange
  rw [h.cfg, h.status, h.pcWord]
  exact hf

end Alike

/-! ### The shared operations -/

/-- R190, R200: the effective address depends on the base register alone. -/
theorem effectiveAddress_of_readReg {rs1 : Reg} (h1 : u.readReg rs1 = s.readReg rs1) (imm : BitVec 12) :
    u.effectiveAddress rs1 imm = s.effectiveAddress rs1 imm := by
  simp [State.effectiveAddress, h1]

/-- An operation that touches no register. -/
theorem RunsAlike.of_regs (es : List Event) (ha : Alike t v) (ht : t.regs = s.regs) (hv : v.regs = u.regs)
    (hto : t.out = s.out ++ es) (hvo : v.out = u.out ++ es) : RunsAlike none s t u v where
  alike := ha
  out := ⟨es, hto, hvo⟩
  reads q hq := by rw [readReg_of_regs ht, readReg_of_regs hv, hq]
  stored h0 := by simpa only [ht, hv] using h0
  written := nofun

/-- An operation that touches neither a register nor OUT. -/
theorem RunsAlike.of_regs_out (ha : Alike t v) (ht : t.regs = s.regs) (hv : v.regs = u.regs) (hto : t.out = s.out)
    (hvo : v.out = u.out) : RunsAlike none s t u v :=
  .of_regs [] ha ht hv (by simpa) (by simpa)

theorem advance_runsAlike (ha : Alike s u) : RunsAlike none s s.advance u u.advance :=
  .of_regs_out ha.advance rfl rfl rfl rfl

/-- A failed access leaves the registers apart that were apart. -/
theorem raise_runsAlike (ha : Alike s u) (d : Option Reg) :
    RunsAlike d s (s.raise .outOfBoundsMemoryAccess) u (u.raise .outOfBoundsMemoryAccess) where
  alike := ha.raise _
  out := ⟨[], by simp, by simp⟩
  reads _ hq := hq
  stored h0 := h0
  written _ _ hfail := absurd (raise_failsWith s _) hfail

/-- R22: a register written with the same value in both runs. -/
theorem writeReg_runsAlike (ha : Alike s u) (rd : Reg) (x : Word) :
    RunsAlike (some rd) s (s.writeReg rd x) u (u.writeReg rd x) where
  alike := ha.writeReg rd x
  out := ⟨[], by simp, by simp⟩
  reads q hq := by simp [readReg_writeReg, hq]
  stored h0 := by simpa using h0
  written _ hd _ := by cases hd; simp

/-- pc_word set to the same index after a register write. -/
theorem writeReg_jumpTo_runsAlike (ha : Alike s u) (rd : Reg) {x y : Word} {p q : Int} (hx : y = x) (hp : q = p) :
    RunsAlike (some rd) s ((s.writeReg rd x).jumpTo p) u ((u.writeReg rd y).jumpTo q) := by
  subst hx hp
  have hw := writeReg_runsAlike ha rd y
  exact
    { alike := hw.alike.setPc q
      out := hw.out
      reads := hw.reads
      stored := hw.stored
      written := fun r hd _ => by cases hd; simp }

/-- R150, R170: a result depends on the value computed and on pc_word. -/
theorem writeResult_runsAlike (ha : Alike s u) (rd : Reg) {x y : Word} (hx : y = x) :
    RunsAlike (some rd) s (s.writeResult rd x) u (u.writeResult rd y) :=
  writeReg_jumpTo_runsAlike ha rd hx (by simp [ha.pcWord])

theorem loadInto_runsAlike (ha : Alike s u) (rd rs1 : Reg) (imm : BitVec 12) (n : Nat) (ext : Word → Word)
    (h1 : u.readReg rs1 = s.readReg rs1) :
    RunsAlike (some rd) s (s.loadInto rd rs1 imm n ext) u (u.loadInto rd rs1 imm n ext) := by
  unfold State.loadInto
  rw [effectiveAddress_of_readReg h1, ha.memRead_eq]
  split
  · exact raise_runsAlike ha _
  · exact writeResult_runsAlike ha rd rfl

theorem storeFrom_runsAlike (ha : Alike s u) (rs2 rs1 : Reg) (imm : BitVec 12) (n : Nat)
    (h1 : u.readReg rs1 = s.readReg rs1) (h2 : u.readReg rs2 = s.readReg rs2) :
    RunsAlike none s (s.storeFrom rs2 rs1 imm n) u (u.storeFrom rs2 rs1 imm n) := by
  have haddr := effectiveAddress_of_readReg h1 imm
  have hbounds : u.InBounds (u.effectiveAddress rs1 imm) n ↔ s.InBounds (s.effectiveAddress rs1 imm) n := by
    rw [haddr, ha.inBounds_iff]
  by_cases hb : s.InBounds (s.effectiveAddress rs1 imm) n
  · rw [storeFrom_inBounds s _ _ _ _ hb, storeFrom_inBounds u _ _ _ _ (hbounds.mpr hb), haddr, h2, ha.mem]
    exact .of_regs_out (ha.setMem _).advance rfl rfl rfl rfl
  · rw [storeFrom_outOfBounds s _ _ _ _ hb, storeFrom_outOfBounds u _ _ _ _ (mt hbounds.mp hb)]
    exact raise_runsAlike ha none

theorem branchOn_runsAlike (ha : Alike s u) {taken taken' : Bool} (offset : BitVec 13) (hc : taken' = taken) :
    RunsAlike none s (s.branchOn taken offset) u (u.branchOn taken' offset) := by
  subst hc
  cases taken' with
  | false => exact advance_runsAlike ha
  | true =>
    have hj : Alike (s.jumpTo (s.pcWord + sdiv4 (sext13 offset))) (u.jumpTo (u.pcWord + sdiv4 (sext13 offset))) := by
      rw [ha.pcWord]; exact ha.setPc _
    exact .of_regs_out hj rfl rfl rfl rfl

/-- R251: the environment call reads x10, and x11 for the services 1, 4, 11 and 17. -/
theorem environmentCall_runsAlike (ha : Alike s u) (h10 : u.readReg 10#5 = s.readReg 10#5)
    (h11 : s.readReg 10#5 = 1#32 ∨ s.readReg 10#5 = 4#32 ∨ s.readReg 10#5 = 11#32 ∨ s.readReg 10#5 = 17#32 →
      u.readReg 11#5 = s.readReg 11#5) :
    RunsAlike none s s.environmentCall u u.environmentCall := by
  have emitted (e : Event) : RunsAlike none s (s.emit e).advance u (u.emit e).advance :=
    .of_regs [e] (ha.emit e).advance rfl rfl rfl rfl
  have exited (c : Word) : RunsAlike none s (s.halt c).advance u (u.halt c).advance :=
    .of_regs_out (ha.halt c).advance rfl rfl rfl rfl
  rw [environmentCall_eq s, environmentCall_eq u, h10]
  split_ifs with c1 c4 c9 c10 c11 c17
  · rw [State.servicePrintInt, State.servicePrintInt, h11 (.inl c1)]
    exact emitted _
  · rw [State.servicePrintString, State.servicePrintString, ha.stringAt_eq, h11 (.inr (.inl c4))]
    split
    · exact raise_runsAlike ha none
    · exact emitted _
  · exact advance_runsAlike ha
  · exact exited _
  · rw [State.servicePrintChar, State.servicePrintChar, h11 (.inr (.inr (.inl c11)))]
    exact emitted _
  · rw [State.serviceExitCode, State.serviceExitCode, h11 (.inr (.inr (.inr c17)))]
    exact exited _
  · exact .of_regs_out (ha.report _).advance rfl rfl rfl rfl

/-! ### An instruction -/

/-- R24, R133: an instruction depends on the registers it reads, on pc_word, memory and configuration, and on nothing else. -/
theorem exec_runsAlike (ha : Alike s u) {i : Instr} (hr : ∀ q ∈ i.sources (s.readReg 10#5), u.readReg q = s.readReg q)
    (h : exec i s = .next t) : ∃ v, exec i u = .next v ∧ RunsAlike i.destination s t u v := by
  cases i <;> obtain rfl := Host.Outcome.next.inj h
  case add rd rs1 rs2 | sub rd rs1 rs2 | sll rd rs1 rs2 | slt rd rs1 rs2 | sltu rd rs1 rs2 | xor rd rs1 rs2 | srl rd rs1 rs2
      | sra rd rs1 rs2 | or rd rs1 rs2 | and rd rs1 rs2 =>
    have h1 : u.readReg rs1 = s.readReg rs1 := hr rs1 (by simp [Instr.sources])
    have h2 : u.readReg rs2 = s.readReg rs2 := hr rs2 (by simp [Instr.sources])
    exact ⟨_, rfl, writeResult_runsAlike ha rd (by rw [h1, h2])⟩
  case addi rd rs1 imm | slti rd rs1 imm | sltiu rd rs1 imm | xori rd rs1 imm | ori rd rs1 imm | andi rd rs1 imm
      | slli rd rs1 shamt | srli rd rs1 shamt | srai rd rs1 shamt =>
    have h1 : u.readReg rs1 = s.readReg rs1 := hr rs1 (by simp [Instr.sources])
    exact ⟨_, rfl, writeResult_runsAlike ha rd (by rw [h1])⟩
  case lb rd rs1 imm | lh rd rs1 imm | lw rd rs1 imm | lbu rd rs1 imm | lhu rd rs1 imm =>
    exact ⟨_, rfl, loadInto_runsAlike ha rd rs1 imm _ _ (hr rs1 (by simp [Instr.sources]))⟩
  case sb rs2 rs1 imm | sh rs2 rs1 imm | sw rs2 rs1 imm =>
    exact ⟨_, rfl, storeFrom_runsAlike ha rs2 rs1 imm _ (hr rs1 (by simp [Instr.sources])) (hr rs2 (by simp [Instr.sources]))⟩
  case beq rs1 rs2 offset | bne rs1 rs2 offset | blt rs1 rs2 offset | bge rs1 rs2 offset | bltu rs1 rs2 offset
      | bgeu rs1 rs2 offset =>
    have h1 : u.readReg rs1 = s.readReg rs1 := hr rs1 (by simp [Instr.sources])
    have h2 : u.readReg rs2 = s.readReg rs2 := hr rs2 (by simp [Instr.sources])
    exact ⟨_, rfl, branchOn_runsAlike ha offset (by rw [h1, h2])⟩
  case jal rd offset =>
    exact ⟨_, rfl, writeReg_jumpTo_runsAlike ha rd ha.link_eq (by rw [ha.pcWord])⟩
  case jalr rd rs1 imm =>
    have h1 : u.readReg rs1 = s.readReg rs1 := hr rs1 (by simp [Instr.sources])
    have ht : u.jalrTarget rs1 imm = s.jalrTarget rs1 imm := by
      rw [State.jalrTarget, effectiveAddress_of_readReg h1, State.jalrTarget]
    exact ⟨_, rfl, writeReg_jumpTo_runsAlike ha rd ha.link_eq ht⟩
  case lui rd imm20 => exact ⟨_, rfl, writeResult_runsAlike ha rd rfl⟩
  case auipc rd imm20 => exact ⟨_, rfl, writeResult_runsAlike ha rd (by rw [ha.pc_eq])⟩
  case ecall rs1 rd =>
    refine ⟨_, rfl, environmentCall_runsAlike ha (hr _ ?_) fun hcode => hr _ ?_⟩
    · simp only [Instr.sources]; split <;> simp
    · simp [Instr.sources, hcode]
  case fence | fenceI | ebreak | csrrw | csrrs | csrrc | csrrwi | csrrsi | csrrci => exact ⟨_, rfl, advance_runsAlike ha⟩

/-- Settles O25: a write to a register that is not read leaves every source as it was. -/
theorem effectDependsOnlyOnSourceRegisters : Obligations.EffectDependsOnlyOnSourceRegisters := by
  intro i s t r x hr h
  have ha : Alike s (s.writeReg r x) := ⟨by simp, by simp, by simp, by simp, by simp⟩
  have hsrc : ∀ q ∈ i.sources (s.readReg 10#5), (s.writeReg r x).readReg q = s.readReg q := fun q hq =>
    readReg_writeReg_ne s x fun hqr => hr (hqr ▸ hq)
  obtain ⟨v, hv, hrun⟩ := exec_runsAlike ha hsrc h
  obtain ⟨es, hto, hvo⟩ := hrun.out
  refine ⟨v, hv, hrun.alike.mem, hrun.alike.pcWord, ?_, hrun.alike.status, hrun.alike.result, hrun.alike.cfg,
    fun q hq => hrun.reads q (readReg_writeReg_ne s x hq), hrun.written r⟩
  rw [hvo, hto, State.writeReg_out]

/-! ### A step -/

/-- R124: the fetch of a stopped engine. -/
theorem fetchOrEnd_of_not_running (h : s.status ≠ .running) : s.fetchOrEnd = .error s.stopped := by
  unfold State.fetchOrEnd
  cases hs : s.status with
  | running => exact absurd hs h
  | halted c => rfl
  | faulted k n => rfl

/-- R287: the fetch at a negative index. -/
theorem fetchOrEnd_of_negative (hs : s.status = .running) (hp : s.pcWord < 0) :
    s.fetchOrEnd = .error (s.raise .pcOutOfRange) := by
  simp [State.fetchOrEnd, hs, hp]

/-- R125: the fetch at or past PROG_LEN. -/
theorem fetchOrEnd_of_length_le (hs : s.status = .running) (hl : (s.cfg.prog.length : Int) ≤ s.pcWord) :
    s.fetchOrEnd = .error s.runOffEnd := by
  have hp : ¬ s.pcWord < 0 := by omega
  have hf : s.cfg.prog[s.pcWord.toNat]? = none := List.getElem?_eq_none (by omega)
  simp [State.fetchOrEnd, State.fetch, hs, hp, hf]

theorem execWord_of_ok {w : Word} {i : Instr} (h : decode w = .ok i) : execWord w s = exec i s := by
  rw [execWord, h]

theorem execWord_of_error {w : Word} {e : Unrecognised} (h : decode w = .error e) :
    execWord w s = .next (s.report .decodeUnknownOpcode).advance := by
  rw [execWord, h, execUnrecognised]

/-- R123 line 4: the end of the handler does the same in both runs, since the status is the same. -/
theorem RunsAlike.endHandler {d : Option Reg} (h : RunsAlike d s.beginHandler t u.beginHandler v) :
    RunsAlike none s t.endHandler u v.endHandler where
  alike := ⟨by simp [h.alike.cfg], by simp [h.alike.pcWord], by simp [h.alike.mem], by simp [h.alike.status],
    by simp [h.alike.result]⟩
  out := by simpa using h.out
  reads := by simpa using h.reads
  stored h0 := by
    by_cases hf : ∃ k n, t.status = .faulted k n
    · obtain ⟨k, n, ht⟩ := hf
      have hv : v.status = .faulted k n := h.alike.status.trans ht
      simpa [State.endHandler, ht, hv] using h.stored h0
    · have ht : ∀ k n, t.status ≠ .faulted k n := fun k n he => hf ⟨k, n, he⟩
      have hv : ∀ k n, v.status ≠ .faulted k n := h.alike.status ▸ ht
      rw [endHandler_of_not_faulted ht, endHandler_of_not_faulted hv, clampX0_stored, clampX0_stored]
  written := nofun

/-- R123: states that read alike and differ in nothing but OUT and the stored x0 take the same step. -/
theorem step_runsAlike (ha : Alike s u) (hr : ∀ q, u.readReg q = s.readReg q) (h : step s = .next t) :
    ∃ v, step u = .next v ∧ RunsAlike none s t u v := by
  obtain ⟨hc, _⟩ := step_next s h
  have hcu : u.ConfigInRange := by rw [State.ConfigInRange, ha.cfg]; exact hc
  obtain ⟨hstop, rfl⟩ | ⟨hs, hneg, rfl⟩ | ⟨hs, hend, rfl⟩ | ⟨w, hf⟩ := step_next_cases h
  · exact ⟨_, step_of_fetchOrEnd_error hcu (fetchOrEnd_of_not_running (ha.status ▸ hstop)),
      .of_regs_out (ha.setResult _) rfl rfl rfl rfl⟩
  · exact ⟨_, step_of_fetchOrEnd_error hcu (fetchOrEnd_of_negative (ha.status.trans hs) (ha.pcWord ▸ hneg)),
      .of_regs_out (ha.raise _) rfl rfl rfl rfl⟩
  · have hendu : (u.cfg.prog.length : Int) ≤ u.pcWord := by rw [ha.cfg, ha.pcWord]; exact hend
    exact ⟨_, step_of_fetchOrEnd_error hcu (fetchOrEnd_of_length_le (ha.status.trans hs) hendu),
      .of_regs_out ((ha.setStatus _).setResult _) rfl rfl rfl rfl⟩
  · have hb : Alike s.beginHandler u.beginHandler := ha.setResult _
    have hfu := fetchOrEnd_of_fetches (ha.fetches hf)
    obtain ⟨t', rfl, ⟨i, hw, he⟩ | ⟨⟨e, hw⟩, rfl⟩⟩ := step_next_of_fetches hf h
    · obtain ⟨v, hv, hrun⟩ := exec_runsAlike hb (fun q _ => hr q) he
      exact ⟨_, step_of_fetchOrEnd_ok hcu hfu ((execWord_of_ok hw).trans hv), hrun.endHandler⟩
    · have hrun : RunsAlike none s.beginHandler (s.beginHandler.report .decodeUnknownOpcode).advance u.beginHandler
          (u.beginHandler.report .decodeUnknownOpcode).advance := .of_regs_out (hb.report _).advance rfl rfl rfl rfl
      exact ⟨_, step_of_fetchOrEnd_ok hcu hfu (execWord_of_error hw), hrun.endHandler⟩

/-! ### Equality of states -/

/-- The stored x0 and the values registers read as are the whole register file. -/
theorem regs_eq_of_readReg (hr : ∀ q, u.readReg q = s.readReg q) (h0 : u.regs[0] = s.regs[0]) : u.regs = s.regs := by
  apply Vector.ext
  intro k hk
  by_cases hz : k = 0
  · subst hz; exact h0
  · have hne : BitVec.ofNat 5 k ≠ 0#5 := fun he => hz (by simpa [Nat.mod_eq_of_lt hk] using congrArg BitVec.toNat he)
    simpa [State.readReg, hne, Nat.mod_eq_of_lt hk] using hr (BitVec.ofNat 5 k)

/-- Alike states with the same registers and output are the same state. -/
theorem Alike.eq (ha : Alike s u) (hr : ∀ q, u.readReg q = s.readReg q) (h0 : u.regs[0] = s.regs[0]) (ho : u.out = s.out) :
    u = s := by
  have hregs := regs_eq_of_readReg hr h0
  obtain ⟨hcfg, hpc, hmem, hst, hres⟩ := ha
  cases s
  cases u
  simp_all

/-- Settles O26: the two steps read alike, append the same events and differ in OUT alone. -/
theorem outputHistoryIsNeverRead : Obligations.OutputHistoryIsNeverRead := by
  intro s t o h
  have ha : Alike s (s.setOut o) := ⟨rfl, rfl, rfl, rfl, rfl⟩
  obtain ⟨v, hv, hrun⟩ := step_runsAlike ha (fun _ => rfl) h
  obtain ⟨es, hto, hvo⟩ := hrun.out
  have ha' : Alike (t.setOut (o ++ es)) v :=
    ⟨hrun.alike.cfg, hrun.alike.pcWord, hrun.alike.mem, hrun.alike.status, hrun.alike.result⟩
  have hvt : v = t.setOut (o ++ es) := ha'.eq (fun q => hrun.reads q rfl) (hrun.stored rfl) hvo
  exact ⟨es, hto, hv.trans (congrArg _ hvt)⟩

/-- R22: the stored value of x0 is seen by no read. -/
theorem readReg_set_zero (x : Word) (r : Reg) : (s.setRegs (s.regs.set 0 x)).readReg r = s.readReg r := by
  unfold State.readReg
  split
  · rfl
  · rename_i h
    have hn : (0 : Nat) ≠ r.toNat := fun e => h (reg_toNat_eq_iff.mp e.symm)
    simp [Vector.getElem_set_ne, hn]

/-- R127: the clamp ends every executed word that does not fail. -/
theorem step_stored_of_fetches {w : Word} (hf : s.Fetches w) (h : step s = .next t) (ht : ∀ k n, t.status ≠ .faulted k n) :
    t.regs[0] = 0#32 := by
  obtain ⟨t', rfl, _⟩ := step_next_of_fetches hf h
  rw [endHandler_of_not_faulted (by simpa using ht), clampX0_stored]

/-- Settles O27: the two steps read alike, and the clamp ends both. -/
theorem storedValueOfX0IsInvisible : Obligations.StoredValueOfX0IsInvisible := by
  intro s t w x hf h ht
  have ha : Alike s (s.setRegs (s.regs.set 0 x)) := ⟨rfl, rfl, rfl, rfl, rfl⟩
  obtain ⟨v, hv, hrun⟩ := step_runsAlike ha (readReg_set_zero x) h
  obtain ⟨es, hto, hvo⟩ := hrun.out
  have hstored : v.regs[0] = t.regs[0] := by
    rw [step_stored_of_fetches hf h ht, step_stored_of_fetches (ha.fetches hf) hv (hrun.alike.status ▸ ht)]
  have hvt : v = t := hrun.alike.eq (fun q => hrun.reads q (readReg_set_zero x q)) hstored (hvo.trans hto.symm)
  exact hvt ▸ hv

end Sys2Proof.Machine
end

section
/-! SUPPORT. Little-endian values and the accesses that give them (20_memory.md R50 to R58): a read byte by byte, and a read inside
the bytes a write wrote. -/

namespace Sys2Proof.Machine

/-! ### Little-endian values -/

/-- R51: the byte at the lowest address is the least significant, the bytes after it stand above it. -/
theorem Memory.readLE_succ_eq_append (m : Memory) (a n : Nat) :
    m.readLE a (n + 1) = (m.readLE (a + 1) n).setWidth 24 ++ m.read a := by
  apply BitVec.eq_of_getLsbD_eq
  intro j hj
  simp only [readLE, BitVec.getLsbD_or, BitVec.getLsbD_setWidth, BitVec.getLsbD_shiftLeft, BitVec.getLsbD_append, hj]
  by_cases h8 : j < 8
  · simp [h8]
  · have hlow : (m.read a).getLsbD j = false := BitVec.getLsbD_of_ge _ _ (by omega)
    simp [h8, hlow, show j - 8 < 24 by omega]

/-- R51: one byte is the value zero-extended. -/
theorem Memory.readLE_one (m : Memory) (a : Nat) : m.readLE a 1 = (m.read a).setWidth 32 := by
  simp [readLE]

/-- R51: the two bytes of a half-word. -/
theorem Memory.readLE_two (m : Memory) (a : Nat) : m.readLE a 2 = (m.read (a + 1) ++ m.read a).setWidth 32 := by
  rw [readLE_succ_eq_append, readLE_one, BitVec.setWidth_append]
  simp

/-- R51: the four bytes of a word. -/
theorem Memory.readLE_four (m : Memory) (a : Nat) :
    m.readLE a 4 = m.read (a + 3) ++ m.read (a + 2) ++ m.read (a + 1) ++ m.read a := by
  rw [readLE_succ_eq_append, readLE_succ_eq_append, readLE_two, BitVec.setWidth_append]
  simp

/-- R58: inside `k` written bytes, a read of `n` bytes at distance `i` gives the bits of the value at their place. -/
theorem Memory.readLE_writeLE_inside {m : Memory} (h : m.wf = true) (a k : Nat) (v : Word) {i n : Nat} (hin : i + n ≤ k) :
    (m.writeLE a k v).readLE (a + i) n = (v >>> (8 * i)) &&& BitVec.ofNat 32 (2 ^ (8 * n) - 1) := by
  apply BitVec.eq_of_getLsbD_eq
  intro j hj
  have hmask : (BitVec.ofNat 32 (2 ^ (8 * n) - 1)).getLsbD j = decide (j / 8 < n) := by
    rw [BitVec.getLsbD_ofNat, Nat.testBit_two_pow_sub_one]
    simp only [hj, decide_true, Bool.true_and]
    congr 1; apply propext; omega
  rw [getLsbD_readLE, BitVec.getLsbD_and, BitVec.getLsbD_ushiftRight, hmask]
  by_cases hn : j / 8 < n
  · rw [Nat.add_assoc, read_writeLE_inside h a k v (by omega), BitVec.getLsbD_extractLsb']
    have hplace : 8 * (i + j / 8) + j % 8 = 8 * i + j := by omega
    have hmod : j % 8 < 8 := by omega
    simp [hj, hn, hplace, hmod]
  · simp [hn]

/-! ### Accesses -/

/-- R52: a write that answers was in bounds and wrote every byte. -/
theorem memWrite_some {s t : State} {addr v : Word} {n : Nat} (h : s.memWrite addr n v = some t) :
    s.InBounds addr n ∧ t = s.setMem (s.mem.writeLE addr.toNat n v) := by
  unfold State.memWrite at h
  split at h
  case isTrue hb => exact ⟨hb, (Option.some.inj h).symm⟩
  case isFalse => cases h

/-- R6, R53: MEM_SIZE is at most 2^31, so no address up to the end of an access in bounds wraps. -/
theorem toNat_add_of_inBounds {s : State} {addr : Word} {k i : Nat} (hc : s.ConfigInRange) (hb : s.InBounds addr k)
    (hi : i ≤ k) : (addr + BitVec.ofNat 32 i).toNat = addr.toNat + i := by
  obtain ⟨_, hmax, _⟩ := hc
  unfold State.InBounds at hb
  rw [BitVec.toNat_add, BitVec.toNat_ofNat]
  omega

end Sys2Proof.Machine
end

section
/-! The statements of 20_memory.md. -/

namespace Sys2Proof.Machine

/-! ### Data memory -/

/-- Settles O35: in bounds by the value of each width, out of bounds by the guard of the read. -/
theorem memReadIsLittleEndian : Obligations.MemReadIsLittleEndian := by
  rintro s addr _ rfl
  refine ⟨fun h => ?_, fun h => ?_, fun h => ?_, fun n h => memRead_outOfBounds s (Nat.not_le.mpr h)⟩
  · rw [memRead_inBounds s h, Memory.readLE_one]; rfl
  · rw [memRead_inBounds s h, Memory.readLE_two]; rfl
  · rw [memRead_inBounds s h, Memory.readLE_four]; rfl

/-- Settles O36: the narrow access is in bounds with the wide one, and reads written bytes only. -/
theorem narrowReadAfterWideWrite : Obligations.NarrowReadAfterWideWrite := by
  intro s t addr v i n hc hw h hin
  obtain ⟨hb, rfl⟩ := memWrite_some h
  have haddr : (addr + BitVec.ofNat 32 i).toNat = addr.toNat + i := toNat_add_of_inBounds hc hb (by omega)
  have hb' : (s.setMem (s.mem.writeLE addr.toNat 4 v)).InBounds (addr + BitVec.ofNat 32 i) n := by
    simp only [State.InBounds, haddr, State.setMem_cfg] at hb ⊢
    omega
  rw [memRead_inBounds _ hb', haddr]
  exact congrArg some (Memory.readLE_writeLE_inside hw addr.toNat 4 v hin)

/-! ### Program images -/

/-- R66: an image of at least four bytes is a word and the program of the rest. -/
theorem programOfImage_cons_eq_some {b0 b1 b2 b3 : Byte} {rest : List Byte} {ws : List Word} :
    programOfImage (b0 :: b1 :: b2 :: b3 :: rest) = some ws ↔
      ∃ tail, programOfImage rest = some tail ∧ (b0 ++ b1 ++ b2 ++ b3) :: tail = ws := by
  rw [programOfImage, Option.map_eq_some_iff]

/-- R66: four bytes for every word. -/
theorem length_of_programOfImage {bytes : List Byte} {ws : List Word} (h : programOfImage bytes = some ws) :
    bytes.length = 4 * ws.length := by
  induction bytes using programOfImage.induct generalizing ws with
  | case1 => cases h; rfl
  | case2 b0 b1 b2 b3 rest ih =>
    obtain ⟨tail, htail, rfl⟩ := programOfImage_cons_eq_some.mp h
    simp only [List.length_cons, ih htail]
    omega
  | case3 | case4 | case5 => cases h

/-- R66: word i is the four bytes from 4i on, most significant first. -/
theorem getElem?_of_programOfImage {bytes : List Byte} {ws : List Word} (h : programOfImage bytes = some ws) {i : Nat}
    (hi : i < ws.length) :
    ws[i]? = some (bytes.getD (4 * i) 0#8 ++ bytes.getD (4 * i + 1) 0#8 ++ bytes.getD (4 * i + 2) 0#8
      ++ bytes.getD (4 * i + 3) 0#8) := by
  induction bytes using programOfImage.induct generalizing ws i with
  | case1 => cases h; cases hi
  | case2 b0 b1 b2 b3 rest ih =>
    obtain ⟨tail, htail, rfl⟩ := programOfImage_cons_eq_some.mp h
    cases i with
    | zero => rfl
    | succ i =>
      rw [List.getElem?_cons_succ, ih htail (Nat.lt_of_succ_lt_succ hi)]
      rfl
  | case3 | case4 | case5 => cases h

/-- R325, D33: an image of whole words gives a program. -/
theorem exists_programOfImage {bytes : List Byte} (h : bytes.length % 4 = 0) : ∃ ws, programOfImage bytes = some ws := by
  induction bytes using programOfImage.induct with
  | case1 => exact ⟨[], rfl⟩
  | case2 b0 b1 b2 b3 rest ih =>
    have hrest : rest.length % 4 = 0 := by simp only [List.length_cons] at h; omega
    obtain ⟨tail, htail⟩ := ih hrest
    exact ⟨_, programOfImage_cons_eq_some.mpr ⟨tail, htail, rfl⟩⟩
  | case3 | case4 | case5 => simp at h

/-- Settles O57, by induction on groups of four bytes. -/
theorem programImageIsBigEndian : Obligations.ProgramImageIsBigEndian := by
  refine fun bytes => ⟨fun ws h => ⟨length_of_programOfImage h, fun i => getElem?_of_programOfImage h⟩, ?_,
    exists_programOfImage⟩
  rintro ⟨ws, h⟩
  have hlen := length_of_programOfImage h
  omega

end Sys2Proof.Machine
end

section
/-! SUPPORT. `decode` opcode by opcode (30_encoding.md R93, R95): one equation per branch, and the exact condition under which
none of the eleven is taken. -/

namespace Sys2Proof

variable {w : Word}

/-- R93: the eleven opcodes that have a format. -/
def knownOpcodes : List (BitVec 7) :=
  [0x33#7, 0x13#7, 0x03#7, 0x23#7, 0x63#7, 0x6F#7, 0x67#7, 0x37#7, 0x17#7, 0x0F#7, 0x73#7]

/-- R93: the opcodes of format Unknown are all the others. -/
theorem formatOf_eq_unknown_iff {op : BitVec 7} : formatOf op = .unknown ↔ op ∉ knownOpcodes := by
  refine ⟨fun h hk => ?_, fun h => ?_⟩
  · have known : ∀ op ∈ knownOpcodes, formatOf op ≠ .unknown := by decide
    exact known op hk h
  · simp only [knownOpcodes, List.mem_cons, List.not_mem_nil, or_false, not_or] at h
    simp [formatOf, h]

theorem decode_op (h : opcodeField w = 0x33#7) : decode w = recogniseOp w := by simp [decode, h]
theorem decode_opImm (h : opcodeField w = 0x13#7) : decode w = recogniseOpImm w := by simp [decode, h]
theorem decode_load (h : opcodeField w = 0x03#7) : decode w = recogniseLoad w := by simp [decode, h]
theorem decode_store (h : opcodeField w = 0x23#7) : decode w = recogniseStore w := by simp [decode, h]
theorem decode_branch (h : opcodeField w = 0x63#7) : decode w = recogniseBranch w := by simp [decode, h]
theorem decode_jal (h : opcodeField w = 0x6F#7) : decode w = .ok (.jal (rdField w) (immFieldJ w)) := by simp [decode, h]
theorem decode_jalr (h : opcodeField w = 0x67#7) : decode w = recogniseJalr w := by simp [decode, h]
theorem decode_lui (h : opcodeField w = 0x37#7) : decode w = .ok (.lui (rdField w) (immFieldU w)) := by simp [decode, h]
theorem decode_auipc (h : opcodeField w = 0x17#7) : decode w = .ok (.auipc (rdField w) (immFieldU w)) := by
  simp [decode, h]
theorem decode_fence (h : opcodeField w = 0x0F#7) : decode w = recogniseFence w := by simp [decode, h]
theorem decode_system (h : opcodeField w = 0x73#7) : decode w = recogniseSystem w := by simp [decode, h]

/-- R104 (a): no other opcode has an instruction. -/
theorem decode_unknown (h : opcodeField w ∉ knownOpcodes) : decode w = .error .unknownOpcode := by
  simp only [knownOpcodes, List.mem_cons, List.not_mem_nil, or_false, not_or] at h
  simp [decode, h]

/-- The branches of `decode`. -/
theorem opcode_cases (op : BitVec 7) : op ∉ knownOpcodes ∨ op = 0x33#7 ∨ op = 0x13#7 ∨ op = 0x03#7 ∨ op = 0x23#7 ∨
    op = 0x63#7 ∨ op = 0x6F#7 ∨ op = 0x67#7 ∨ op = 0x37#7 ∨ op = 0x17#7 ∨ op = 0x0F#7 ∨ op = 0x73#7 := by
  by_cases h : op ∈ knownOpcodes
  · right
    simpa only [knownOpcodes, List.mem_cons, List.not_mem_nil, or_false] using h
  · exact .inl h

end Sys2Proof
end

section
/-! Decoding an encoded instruction (30_encoding.md R111): the recogniser of each opcode on the fields of an encoded word. -/

namespace Sys2Proof

/-- R89: an even branch offset is given back. -/
theorem immFieldB_encB_of_even {offset : BitVec 13} (rs2 rs1 : Reg) (f3 : BitVec 3) (op : BitVec 7)
    (h : branchOffsetEven offset = true) : immFieldB (encB offset rs2 rs1 f3 op) = offset :=
  immFieldB_encB rs2 rs1 f3 op (by simpa [branchOffsetEven] using h)

/-- R91: an even JAL offset is given back. -/
theorem immFieldJ_encJ_of_even {offset : BitVec 21} (rd : Reg) (op : BitVec 7) (h : jumpOffsetEven offset = true) :
    immFieldJ (encJ offset rd op) = offset :=
  immFieldJ_encJ rd op (by simpa [jumpOffsetEven] using h)

/-- R111: a well-formed instruction comes back, by the opcode its word carries. -/
theorem decode_encode {i : Instr} (h : i.wellFormed = true) : decode (encode i) = .ok i := by
  cases i with
  | add | sub | sll | slt | sltu | xor | srl | sra | or | and =>
    simp [encode, decode_op, recogniseOp, byFunct3, rForm]
  | addi | slti | sltiu | xori | ori | andi | slli | srli | srai =>
    simp [encode, decode_opImm, recogniseOpImm, byFunct3, iForm, rForm]
  | lb | lh | lw | lbu | lhu => simp [encode, decode_load, recogniseLoad, byFunct3, iForm]
  | sb | sh | sw => simp [encode, decode_store, recogniseStore, byFunct3, sForm]
  | beq | bne | blt | bge | bltu | bgeu =>
    simp [encode, decode_branch, recogniseBranch, byFunct3, bForm, immFieldB_encB_of_even _ _ _ _ h]
  | jal => simp [encode, decode_jal, immFieldJ_encJ_of_even _ _ h]
  | jalr => simp [encode, decode_jalr, recogniseJalr, iForm]
  | lui => simp [encode, decode_lui]
  | auipc => simp [encode, decode_auipc]
  | fence | fenceI => simp [encode, decode_fence, recogniseFence, fence_fields]
  | ecall | ebreak | csrrw | csrrs | csrrc | csrrwi | csrrsi | csrrci =>
    simp [encode, decode_system, recogniseSystem, byFunct3, csrForm]

/-- Settles O4, by the opcode of the instruction. -/
theorem decodeOfEncodeIsTheInstruction : Obligations.DecodeOfEncodeIsTheInstruction :=
  fun _ => decode_encode

end Sys2Proof
end

section
/-! Encoding a decoded word (30_encoding.md R111): a word with the selecting fields of an encoding is that encoding of its own
operands, and every choice of the decoder is such a word. -/

namespace Sys2Proof

variable {w : Word}

/-! ### A word is the encoding its selecting fields name -/

section
variable {f7 : BitVec 7} {f3 : BitVec 3} {op : BitVec 7}

theorem encR_eq_of_fields (h7 : funct7Field w = f7) (h3 : funct3Field w = f3) (hop : opcodeField w = op) :
    encR f7 (rs2Field w) (rs1Field w) f3 (rdField w) op = w := by
  rw [← h7, ← h3, ← hop, encR_fields]

theorem encI_eq_of_fields (h3 : funct3Field w = f3) (hop : opcodeField w = op) :
    encI (immFieldI w) (rs1Field w) f3 (rdField w) op = w := by
  rw [← h3, ← hop, encI_fields]

theorem encS_eq_of_fields (h3 : funct3Field w = f3) (hop : opcodeField w = op) :
    encS (immFieldS w) (rs2Field w) (rs1Field w) f3 op = w := by
  rw [← h3, ← hop, encS_fields]

theorem encB_eq_of_fields (h3 : funct3Field w = f3) (hop : opcodeField w = op) :
    encB (immFieldB w) (rs2Field w) (rs1Field w) f3 op = w := by
  rw [← h3, ← hop, encB_fields]

theorem encU_eq_of_fields (hop : opcodeField w = op) : encU (immFieldU w) (rdField w) op = w := by
  rw [← hop, encU_fields]

theorem encJ_eq_of_fields (hop : opcodeField w = op) : encJ (immFieldJ w) (rdField w) op = w := by
  rw [← hop, encJ_fields]

/-- R103: the two instructions whose whole immediate selects them. -/
theorem encI_eq_of_imm {imm : BitVec 12} (hi : immFieldI w = imm) (h3 : funct3Field w = f3) (hop : opcodeField w = op) :
    encI imm (rs1Field w) f3 (rdField w) op = w := by
  rw [← hi, encI_eq_of_fields h3 hop]

/-- R102: the three fence sets side by side are the immediate bits. -/
theorem fenceSets_append (w : Word) : w.extractLsb' 28 4 ++ w.extractLsb' 24 4 ++ w.extractLsb' 20 4 = immFieldI w := by
  apply BitVec.eq_of_getLsbD_eq
  intro i hi
  simp only [immFieldI, BitVec.getLsbD_append, BitVec.getLsbD_extractLsb']
  interval_cases i <;> simp

end

/-- R89: bit 0 of the offset of a branch word is 0. -/
theorem branchOffsetEven_immFieldB (w : Word) : branchOffsetEven (immFieldB w) = true := by
  simp only [branchOffsetEven, immFieldB, BitVec.getLsbD_append]; simp

/-- R91: bit 0 of the offset of a JAL word is 0. -/
theorem jumpOffsetEven_immFieldJ (w : Word) : jumpOffsetEven (immFieldJ w) = true := by
  simp only [jumpOffsetEven, immFieldJ, BitVec.getLsbD_append]; simp

/-! ### The words of an instruction -/

/-- The word is the encoding of the well-formed instruction. -/
def IsWordOf (w : Word) (i : Instr) : Prop := encode i = w ∧ i.wellFormed = true

/-- Whatever instruction the decoder answers with, the word is its encoding. -/
def Encodes (w : Word) (r : Except Unrecognised Instr) : Prop := ∀ i, r = .ok i → IsWordOf w i

theorem encodes_ok {i : Instr} (henc : encode i = w) (hwf : i.wellFormed = true) : Encodes w (.ok i) := by
  rintro _ ⟨⟩
  exact ⟨henc, hwf⟩

theorem encodes_error (e : Unrecognised) : Encodes w (.error e) := by
  rintro _ ⟨⟩

theorem encodes_byFunct3 {c0 c1 c2 c3 c4 c5 c6 c7 : Except Unrecognised Instr}
    (h0 : funct3Field w = 0b000#3 → Encodes w c0) (h1 : funct3Field w = 0b001#3 → Encodes w c1)
    (h2 : funct3Field w = 0b010#3 → Encodes w c2) (h3 : funct3Field w = 0b011#3 → Encodes w c3)
    (h4 : funct3Field w = 0b100#3 → Encodes w c4) (h5 : funct3Field w = 0b101#3 → Encodes w c5)
    (h6 : funct3Field w = 0b110#3 → Encodes w c6) (h7 : funct3Field w = 0b111#3 → Encodes w c7) :
    Encodes w (byFunct3 (funct3Field w) c0 c1 c2 c3 c4 c5 c6 c7) := by
  intro i h
  obtain ⟨hf, h⟩ | ⟨hf, h⟩ | ⟨hf, h⟩ | ⟨hf, h⟩ | ⟨hf, h⟩ | ⟨hf, h⟩ | ⟨hf, h⟩ | ⟨hf, h⟩ := byFunct3_cases h
  exacts [h0 hf i h, h1 hf i h, h2 hf i h, h3 hf i h, h4 hf i h, h5 hf i h, h6 hf i h, h7 hf i h]

/-! ### The recognisers -/

theorem encodes_recogniseOp (hop : opcodeField w = 0x33#7) : Encodes w (recogniseOp w) := by
  unfold recogniseOp
  split_ifs with h7 h7
  · refine encodes_byFunct3 ?_ ?_ ?_ ?_ ?_ ?_ ?_ ?_ <;> exact fun h3 => encodes_ok (encR_eq_of_fields h7 h3 hop) rfl
  · refine encodes_byFunct3 ?sub ?_ ?_ ?_ ?_ ?sra ?_ ?_
    case sub | sra => exact fun h3 => encodes_ok (encR_eq_of_fields h7 h3 hop) rfl
    all_goals exact fun _ => encodes_error _
  · exact encodes_error _

theorem encodes_recogniseOpImm (hop : opcodeField w = 0x13#7) : Encodes w (recogniseOpImm w) := by
  refine encodes_byFunct3 ?_ ?slli ?_ ?_ ?_ ?srxi ?_ ?_ <;> intro h3
  case slli =>
    split_ifs with h7
    · exact encodes_ok (encR_eq_of_fields h7 h3 hop) rfl
    · exact encodes_error _
  case srxi =>
    split_ifs with h7 h7
    · exact encodes_ok (encR_eq_of_fields h7 h3 hop) rfl
    · exact encodes_ok (encR_eq_of_fields h7 h3 hop) rfl
    · exact encodes_error _
  all_goals exact encodes_ok (encI_eq_of_fields h3 hop) rfl

theorem encodes_recogniseLoad (hop : opcodeField w = 0x03#7) : Encodes w (recogniseLoad w) := by
  refine encodes_byFunct3 ?lb ?lh ?lw ?_ ?lbu ?lhu ?_ ?_
  case lb | lh | lw | lbu | lhu => exact fun h3 => encodes_ok (encI_eq_of_fields h3 hop) rfl
  all_goals exact fun _ => encodes_error _

theorem encodes_recogniseStore (hop : opcodeField w = 0x23#7) : Encodes w (recogniseStore w) := by
  refine encodes_byFunct3 ?sb ?sh ?sw ?_ ?_ ?_ ?_ ?_
  case sb | sh | sw => exact fun h3 => encodes_ok (encS_eq_of_fields h3 hop) rfl
  all_goals exact fun _ => encodes_error _

theorem encodes_recogniseBranch (hop : opcodeField w = 0x63#7) : Encodes w (recogniseBranch w) := by
  refine encodes_byFunct3 ?beq ?bne ?_ ?_ ?blt ?bge ?bltu ?bgeu
  case beq | bne | blt | bge | bltu | bgeu =>
    exact fun h3 => encodes_ok (encB_eq_of_fields h3 hop) (branchOffsetEven_immFieldB w)
  all_goals exact fun _ => encodes_error _

theorem encodes_recogniseJalr (hop : opcodeField w = 0x67#7) : Encodes w (recogniseJalr w) := by
  unfold recogniseJalr
  split_ifs with h3
  · exact encodes_ok (encI_eq_of_fields h3 hop) rfl
  · exact encodes_error _

theorem encodes_recogniseFence (hop : opcodeField w = 0x0F#7) : Encodes w (recogniseFence w) := by
  unfold recogniseFence
  split_ifs with h3 h3
  · exact encodes_ok (by rw [encode, fenceSets_append, encI_eq_of_fields h3 hop]) rfl
  · exact encodes_ok (encI_eq_of_fields h3 hop) rfl
  · exact encodes_error _

theorem encodes_recogniseSystem (hop : opcodeField w = 0x73#7) : Encodes w (recogniseSystem w) := by
  refine encodes_byFunct3 ?environment ?_ ?_ ?_ ?none ?_ ?_ ?_ <;> intro h3
  case environment =>
    split_ifs with hi hi
    · exact encodes_ok (encI_eq_of_imm hi h3 hop) rfl
    · exact encodes_ok (encI_eq_of_imm hi h3 hop) rfl
    · exact encodes_error _
  case none => exact encodes_error _
  all_goals exact encodes_ok (encI_eq_of_fields h3 hop) rfl

/-- R111: no word is decoded to an instruction whose encoding is another word. -/
theorem encodes_decode (w : Word) : Encodes w (decode w) := by
  obtain h | h | h | h | h | h | h | h | h | h | h | h := opcode_cases (opcodeField w)
  · exact decode_unknown h ▸ encodes_error _
  · exact decode_op h ▸ encodes_recogniseOp h
  · exact decode_opImm h ▸ encodes_recogniseOpImm h
  · exact decode_load h ▸ encodes_recogniseLoad h
  · exact decode_store h ▸ encodes_recogniseStore h
  · exact decode_branch h ▸ encodes_recogniseBranch h
  · exact decode_jal h ▸ encodes_ok (encJ_eq_of_fields h) (jumpOffsetEven_immFieldJ w)
  · exact decode_jalr h ▸ encodes_recogniseJalr h
  · exact decode_lui h ▸ encodes_ok (encU_eq_of_fields h) rfl
  · exact decode_auipc h ▸ encodes_ok (encU_eq_of_fields h) rfl
  · exact decode_fence h ▸ encodes_recogniseFence h
  · exact decode_system h ▸ encodes_recogniseSystem h

/-- Settles O5, by the opcode of the word and the choices of its recogniser. -/
theorem encodeOfDecodeIsTheWord : Obligations.EncodeOfDecodeIsTheWord :=
  encodes_decode

end Sys2Proof
end

section
/-! Recognition against the opcode table (30_encoding.md R104): the encoder puts every instruction in its own row, and the fields a
row's mask keeps are the ones the decoder selects by. -/

namespace Sys2Proof

variable {w : Word} {r : OpcodeRow}

/-! ### The row of an instruction -/

/-- R104: every instruction is in the row of its mnemonic. -/
theorem encode_has_row (i : Instr) : ∃ r ∈ opcodeTable, r.mnemonic = i.mnemonic ∧ r.Has (encode i) := by
  open Laws.EncodeRow in
  cases i
  exacts [add .., sub .., sll .., slt .., sltu .., xor .., srl .., sra .., or .., and .., addi .., slti .., sltiu .., xori ..,
    ori .., andi .., slli .., srli .., srai .., lb .., lh .., lw .., lbu .., lhu .., sb .., sh .., sw .., beq .., bne ..,
    blt .., bge .., bltu .., bgeu .., jal .., jalr .., lui .., auipc .., fence .., fenceI .., ecall .., ebreak .., csrrw ..,
    csrrs .., csrrc .., csrrwi .., csrrsi .., csrrci ..]

/-- R104: a recognised word is in the row of its instruction, being its encoding. -/
theorem decode_has_row {i : Instr} (h : decode w = .ok i) : ∃ r ∈ opcodeTable, r.mnemonic = i.mnemonic ∧ r.Has w := by
  obtain ⟨rfl, _⟩ := encodes_decode w i h
  exact encode_has_row i

/-! ### The selecting fields of a word of a row -/

/-- A field the mask keeps whole is the field of the pattern. -/
theorem extract_eq_of_has {s l : Nat} (h : r.Has w) (hm : r.mask.extractLsb' s l = BitVec.allOnes l) :
    w.extractLsb' s l = r.pattern.extractLsb' s l := by
  rw [← (h : w &&& r.mask = r.pattern), BitVec.extractLsb'_and, hm, BitVec.and_allOnes]

theorem OpcodeRow.Has.opcode (h : r.Has w) (hm : opcodeField r.mask = BitVec.allOnes 7) :
    opcodeField w = opcodeField r.pattern := extract_eq_of_has h hm

theorem OpcodeRow.Has.funct3 (h : r.Has w) (hm : funct3Field r.mask = BitVec.allOnes 3) :
    funct3Field w = funct3Field r.pattern := extract_eq_of_has h hm

theorem OpcodeRow.Has.funct7 (h : r.Has w) (hm : funct7Field r.mask = BitVec.allOnes 7) :
    funct7Field w = funct7Field r.pattern := extract_eq_of_has h hm

theorem OpcodeRow.Has.imm (h : r.Has w) (hm : immFieldI r.mask = BitVec.allOnes 12) :
    immFieldI w = immFieldI r.pattern := extract_eq_of_has h hm

/-! ### A word of a row decodes to the row's instruction -/

/-- The word decodes to an instruction of the row. -/
def DecodesAs (w : Word) (r : OpcodeRow) : Prop := ∃ i, decode w = .ok i ∧ i.mnemonic = r.mnemonic

/-- R96. -/
theorem decodesAs_of_opRows (hr : r ∈ opRows) (h : r.Has w) : DecodesAs w r := by
  simp only [opRows, List.mem_cons, List.not_mem_nil, or_false] at hr
  obtain rfl | rfl | rfl | rfl | rfl | rfl | rfl | rfl | rfl | rfl := hr
  all_goals
    rw [DecodesAs, decode_op (h.opcode rfl), recogniseOp, h.funct7 rfl, h.funct3 rfl]
    exact ⟨_, rfl, rfl⟩

/-- R97: funct7 selects among the shifts alone. -/
theorem decodesAs_of_opImmRows (hr : r ∈ opImmRows) (h : r.Has w) : DecodesAs w r := by
  simp only [opImmRows, List.mem_cons, List.not_mem_nil, or_false] at hr
  obtain rfl | rfl | rfl | rfl | rfl | rfl | rfl | rfl | rfl := hr
  iterate 6
    · rw [DecodesAs, decode_opImm (h.opcode rfl), recogniseOpImm, h.funct3 rfl]
      exact ⟨_, rfl, rfl⟩
  all_goals
    rw [DecodesAs, decode_opImm (h.opcode rfl), recogniseOpImm, h.funct7 rfl, h.funct3 rfl]
    exact ⟨_, rfl, rfl⟩

/-- R98. -/
theorem decodesAs_of_loadRows (hr : r ∈ loadRows) (h : r.Has w) : DecodesAs w r := by
  simp only [loadRows, List.mem_cons, List.not_mem_nil, or_false] at hr
  obtain rfl | rfl | rfl | rfl | rfl := hr
  all_goals
    rw [DecodesAs, decode_load (h.opcode rfl), recogniseLoad, h.funct3 rfl]
    exact ⟨_, rfl, rfl⟩

/-- R99. -/
theorem decodesAs_of_storeRows (hr : r ∈ storeRows) (h : r.Has w) : DecodesAs w r := by
  simp only [storeRows, List.mem_cons, List.not_mem_nil, or_false] at hr
  obtain rfl | rfl | rfl := hr
  all_goals
    rw [DecodesAs, decode_store (h.opcode rfl), recogniseStore, h.funct3 rfl]
    exact ⟨_, rfl, rfl⟩

/-- R100. -/
theorem decodesAs_of_branchRows (hr : r ∈ branchRows) (h : r.Has w) : DecodesAs w r := by
  simp only [branchRows, List.mem_cons, List.not_mem_nil, or_false] at hr
  obtain rfl | rfl | rfl | rfl | rfl | rfl := hr
  all_goals
    rw [DecodesAs, decode_branch (h.opcode rfl), recogniseBranch, h.funct3 rfl]
    exact ⟨_, rfl, rfl⟩

/-- R101. -/
theorem decodesAs_of_jumpUpperRows (hr : r ∈ jumpUpperRows) (h : r.Has w) : DecodesAs w r := by
  simp only [jumpUpperRows, List.mem_cons, List.not_mem_nil, or_false] at hr
  obtain rfl | rfl | rfl | rfl := hr
  · exact ⟨_, decode_jal (h.opcode rfl), rfl⟩
  · rw [DecodesAs, decode_jalr (h.opcode rfl), recogniseJalr, h.funct3 rfl]
    exact ⟨_, rfl, rfl⟩
  · exact ⟨_, decode_lui (h.opcode rfl), rfl⟩
  · exact ⟨_, decode_auipc (h.opcode rfl), rfl⟩

/-- R102. -/
theorem decodesAs_of_fenceRows (hr : r ∈ fenceRows) (h : r.Has w) : DecodesAs w r := by
  simp only [fenceRows, List.mem_cons, List.not_mem_nil, or_false] at hr
  obtain rfl | rfl := hr
  all_goals
    rw [DecodesAs, decode_fence (h.opcode rfl), recogniseFence, h.funct3 rfl]
    exact ⟨_, rfl, rfl⟩

/-- R103: inst[31:20] selects between ECALL and EBREAK alone. -/
theorem decodesAs_of_systemRows (hr : r ∈ systemRows) (h : r.Has w) : DecodesAs w r := by
  simp only [systemRows, List.mem_cons, List.not_mem_nil, or_false] at hr
  obtain rfl | rfl | rfl | rfl | rfl | rfl | rfl | rfl := hr
  iterate 2
    · rw [DecodesAs, decode_system (h.opcode rfl), recogniseSystem, h.funct3 rfl, h.imm rfl]
      exact ⟨_, rfl, rfl⟩
  all_goals
    rw [DecodesAs, decode_system (h.opcode rfl), recogniseSystem, h.funct3 rfl]
    exact ⟨_, rfl, rfl⟩

theorem decodesAs_of_has (hr : r ∈ opcodeTable) (h : r.Has w) : DecodesAs w r := by
  simp only [opcodeTable, List.mem_append, or_assoc] at hr
  obtain hr | hr | hr | hr | hr | hr | hr | hr := hr
  exacts [decodesAs_of_opRows hr h, decodesAs_of_opImmRows hr h, decodesAs_of_loadRows hr h, decodesAs_of_storeRows hr h,
    decodesAs_of_branchRows hr h, decodesAs_of_jumpUpperRows hr h, decodesAs_of_fenceRows hr h, decodesAs_of_systemRows hr h]

/-- R104: no two rows have the same mnemonic. -/
theorem opcodeTable_mnemonics_nodup : (opcodeTable.map OpcodeRow.mnemonic).Nodup := by decide

/-- R104: two rows with a word in common carry the mnemonic it decodes to. -/
theorem row_unique {q : OpcodeRow} (hr : r ∈ opcodeTable) (hq : q ∈ opcodeTable) (hrw : r.Has w) (hqw : q.Has w) : r = q := by
  obtain ⟨i, hi, hir⟩ := decodesAs_of_has hr hrw
  obtain ⟨j, hj, hjq⟩ := decodesAs_of_has hq hqw
  obtain rfl : i = j := Except.ok.inj (hi.symm.trans hj)
  exact List.inj_on_of_nodup_map opcodeTable_mnemonics_nodup hr hq (hir.symm.trans hjq)

end Sys2Proof
end

section
/-! The words that are no instruction (30_encoding.md R104, R106): when each recogniser rejects a word, and what such a word does. -/

namespace Sys2Proof

variable {w : Word} {e : Unrecognised}

/-- `byFunct3_cases` both ways. -/
theorem byFunct3_eq_iff {α : Type} {f : BitVec 3} {c0 c1 c2 c3 c4 c5 c6 c7 r : α} :
    byFunct3 f c0 c1 c2 c3 c4 c5 c6 c7 = r ↔
      (f = 0b000#3 ∧ c0 = r) ∨ (f = 0b001#3 ∧ c1 = r) ∨ (f = 0b010#3 ∧ c2 = r) ∨ (f = 0b011#3 ∧ c3 = r) ∨
      (f = 0b100#3 ∧ c4 = r) ∨ (f = 0b101#3 ∧ c5 = r) ∨ (f = 0b110#3 ∧ c6 = r) ∨ (f = 0b111#3 ∧ c7 = r) := by
  refine ⟨byFunct3_cases, ?_⟩
  rintro (⟨rfl, rfl⟩ | ⟨rfl, rfl⟩ | ⟨rfl, rfl⟩ | ⟨rfl, rfl⟩ | ⟨rfl, rfl⟩ | ⟨rfl, rfl⟩ | ⟨rfl, rfl⟩ | ⟨rfl, rfl⟩) <;> rfl

/-! ### Where one choice rejects -/

@[simp] theorem rForm_ne_error (mk : Reg → Reg → Reg → Instr) : rForm mk w ≠ .error e := by simp [rForm]
@[simp] theorem iForm_ne_error (mk : Reg → Reg → BitVec 12 → Instr) : iForm mk w ≠ .error e := by simp [iForm]
@[simp] theorem sForm_ne_error (mk : Reg → Reg → BitVec 12 → Instr) : sForm mk w ≠ .error e := by simp [sForm]
@[simp] theorem bForm_ne_error (mk : Reg → Reg → BitVec 13 → Instr) : bForm mk w ≠ .error e := by simp [bForm]
@[simp] theorem csrForm_ne_error (mk : Reg → BitVec 12 → BitVec 5 → Instr) : csrForm mk w ≠ .error e := by simp [csrForm]

@[simp] theorem unassigned_eq_error_iff : unassigned = .error e ↔ e = .unassignedFunction := by
  simp [unassigned, eq_comm]

/-- R106: the values of funct3 that are neither of the two with funct7 = 0100000. -/
theorem funct3_ne_sub_sra_iff {f : BitVec 3} : f ≠ 0b000#3 ∧ f ≠ 0b101#3 ↔
    f = 0b001#3 ∨ f = 0b010#3 ∨ f = 0b011#3 ∨ f = 0b100#3 ∨ f = 0b110#3 ∨ f = 0b111#3 := by
  revert f; decide

theorem three_le_funct3_iff {f : BitVec 3} :
    3 ≤ f.toNat ↔ f = 0b011#3 ∨ f = 0b100#3 ∨ f = 0b101#3 ∨ f = 0b110#3 ∨ f = 0b111#3 := by
  revert f; decide

theorem two_le_funct3_iff {f : BitVec 3} : 2 ≤ f.toNat ↔ f ≠ 0b000#3 ∧ f ≠ 0b001#3 := by
  revert f; decide

/-- R103: inst[31:20] is neither 0 nor 1. -/
theorem two_le_shiftRight_twenty_iff (w : Word) : 2 ≤ (w >>> 20).toNat ↔ immFieldI w ≠ 0x000#12 ∧ immFieldI w ≠ 0x001#12 := by
  have himm : (immFieldI w).toNat = (w >>> 20).toNat := by
    have hw := w.isLt
    rw [immFieldI, BitVec.extractLsb'_toNat, BitVec.toNat_ushiftRight, Nat.shiftRight_eq_div_pow]
    omega
  simp only [ne_eq, ← BitVec.toNat_inj, himm, BitVec.toNat_ofNat]
  omega

/-! ### The function fields each recogniser rejects -/

theorem recogniseOp_eq_error_iff : recogniseOp w = .error e ↔
    ((funct7Field w ≠ 0b0000000#7 ∧ funct7Field w ≠ 0b0100000#7) ∨
      (funct7Field w = 0b0100000#7 ∧ funct3Field w ≠ 0b000#3 ∧ funct3Field w ≠ 0b101#3)) ∧ e = .unassignedFunction := by
  unfold recogniseOp
  split_ifs with h0 h20
  · simp [h0, byFunct3_eq_iff]
  · simp [h20, byFunct3_eq_iff, funct3_ne_sub_sra_iff, or_and_right]
  · simp [h0, h20]

theorem recogniseOpImm_eq_error_iff : recogniseOpImm w = .error e ↔
    ((funct3Field w = 0b001#3 ∧ funct7Field w ≠ 0b0000000#7) ∨
      (funct3Field w = 0b101#3 ∧ funct7Field w ≠ 0b0000000#7 ∧ funct7Field w ≠ 0b0100000#7)) ∧ e = .unassignedFunction := by
  simp [recogniseOpImm, byFunct3_eq_iff, ite_eq_iff, or_and_right, and_assoc]

theorem recogniseLoad_eq_error_iff : recogniseLoad w = .error e ↔
    (funct3Field w = 0b011#3 ∨ funct3Field w = 0b110#3 ∨ funct3Field w = 0b111#3) ∧ e = .unassignedFunction := by
  simp [recogniseLoad, byFunct3_eq_iff, or_and_right]

theorem recogniseStore_eq_error_iff : recogniseStore w = .error e ↔
    3 ≤ (funct3Field w).toNat ∧ e = .unassignedFunction := by
  simp [recogniseStore, byFunct3_eq_iff, three_le_funct3_iff, or_and_right]

theorem recogniseBranch_eq_error_iff : recogniseBranch w = .error e ↔
    (funct3Field w = 0b010#3 ∨ funct3Field w = 0b011#3) ∧ e = .unassignedFunction := by
  simp [recogniseBranch, byFunct3_eq_iff, or_and_right]

theorem recogniseJalr_eq_error_iff : recogniseJalr w = .error e ↔ funct3Field w ≠ 0b000#3 ∧ e = .unassignedFunction := by
  simp [recogniseJalr, ite_eq_iff]

theorem recogniseFence_eq_error_iff : recogniseFence w = .error e ↔
    2 ≤ (funct3Field w).toNat ∧ e = .unassignedFunction := by
  simp [recogniseFence, two_le_funct3_iff, ite_eq_iff, and_assoc]

theorem recogniseSystem_eq_error_iff : recogniseSystem w = .error e ↔
    ((funct3Field w = 0b000#3 ∧ 2 ≤ (w >>> 20).toNat) ∨ funct3Field w = 0b100#3) ∧ e = .unassignedFunction := by
  rw [two_le_shiftRight_twenty_iff]
  simp [recogniseSystem, byFunct3_eq_iff, ite_eq_iff, or_and_right, and_assoc]

/-! ### The words `decode` rejects -/

/-- R106 and R103: a known opcode with function fields that select no instruction. -/
def ReservedFunction (w : Word) : Prop :=
  (opcodeField w = 0x33#7 ∧ funct7Field w ≠ 0b0000000#7 ∧ funct7Field w ≠ 0b0100000#7) ∨
  (opcodeField w = 0x33#7 ∧ funct7Field w = 0b0100000#7 ∧ funct3Field w ≠ 0b000#3 ∧ funct3Field w ≠ 0b101#3) ∨
  (opcodeField w = 0x13#7 ∧ funct3Field w = 0b001#3 ∧ funct7Field w ≠ 0b0000000#7) ∨
  (opcodeField w = 0x13#7 ∧ funct3Field w = 0b101#3 ∧ funct7Field w ≠ 0b0000000#7 ∧ funct7Field w ≠ 0b0100000#7) ∨
  (opcodeField w = 0x03#7 ∧ (funct3Field w = 0b011#3 ∨ funct3Field w = 0b110#3 ∨ funct3Field w = 0b111#3)) ∨
  (opcodeField w = 0x23#7 ∧ 3 ≤ (funct3Field w).toNat) ∨
  (opcodeField w = 0x63#7 ∧ (funct3Field w = 0b010#3 ∨ funct3Field w = 0b011#3)) ∨
  (opcodeField w = 0x67#7 ∧ funct3Field w ≠ 0b000#3) ∨
  (opcodeField w = 0x0F#7 ∧ 2 ≤ (funct3Field w).toNat) ∨
  (opcodeField w = 0x73#7 ∧ funct3Field w = 0b000#3 ∧ 2 ≤ (w >>> 20).toNat) ∨
  (opcodeField w = 0x73#7 ∧ funct3Field w = 0b100#3)

/-- R104: the two kinds of rejected word, by the opcode. -/
theorem decode_eq_error_iff : decode w = .error e ↔
    (opcodeField w ∉ knownOpcodes ∧ e = .unknownOpcode) ∨ (ReservedFunction w ∧ e = .unassignedFunction) := by
  obtain h | h | h | h | h | h | h | h | h | h | h | h := opcode_cases (opcodeField w)
  · rw [decode_unknown h]
    simp only [knownOpcodes, List.mem_cons, List.not_mem_nil, or_false, not_or] at h
    simp [ReservedFunction, knownOpcodes, h, eq_comm]
  · rw [decode_op h, recogniseOp_eq_error_iff]; simp [ReservedFunction, knownOpcodes, h]
  · rw [decode_opImm h, recogniseOpImm_eq_error_iff]; simp [ReservedFunction, knownOpcodes, h]
  · rw [decode_load h, recogniseLoad_eq_error_iff]; simp [ReservedFunction, knownOpcodes, h]
  · rw [decode_store h, recogniseStore_eq_error_iff]; simp [ReservedFunction, knownOpcodes, h]
  · rw [decode_branch h, recogniseBranch_eq_error_iff]; simp [ReservedFunction, knownOpcodes, h]
  · rw [decode_jal h]; simp [ReservedFunction, knownOpcodes, h]
  · rw [decode_jalr h, recogniseJalr_eq_error_iff]; simp [ReservedFunction, knownOpcodes, h]
  · rw [decode_lui h]; simp [ReservedFunction, knownOpcodes, h]
  · rw [decode_auipc h]; simp [ReservedFunction, knownOpcodes, h]
  · rw [decode_fence h, recogniseFence_eq_error_iff]; simp [ReservedFunction, knownOpcodes, h]
  · rw [decode_system h, recogniseSystem_eq_error_iff]; simp [ReservedFunction, knownOpcodes, h]

/-- R130: a rejected word of either kind is a reported no-op. -/
theorem execWord_reportsOnly (h : decode w = .error e) (s : Machine.State) :
    ∃ t, Machine.execWord w s = .next t ∧ Machine.ReportsOnly s t .decodeUnknownOpcode :=
  ⟨_, Machine.execWord_of_error h, rfl, rfl, fun _ => rfl, fun _ => rfl, rfl, rfl, rfl⟩

/-- Settles O6: a recognised word is in its instruction's row, a word of a row decodes, and what decodes to no instruction is told
apart by its opcode. -/
theorem recognitionIsTheOpcodeTable : Obligations.RecognitionIsTheOpcodeTable := by
  refine ⟨fun w => ⟨?_, ?_⟩, fun w i => decode_has_row, fun w r hr q hq => row_unique hr hq, fun w => ?_,
    fun w e s h => execWord_reportsOnly h s⟩
  · rintro ⟨i, hi⟩
    obtain ⟨r, hr, _, hw⟩ := decode_has_row hi
    exact ⟨r, hr, hw⟩
  · rintro ⟨r, hr, hw⟩
    obtain ⟨i, hi, _⟩ := decodesAs_of_has hr hw
    exact ⟨i, hi⟩
  · have hformat : (decodeRecord w).format = .unknown ↔ opcodeField w ∉ knownOpcodes := formatOf_eq_unknown_iff
    simp [hformat, decode_eq_error_iff]

/-- Settles O7: the function fields the recognisers reject, and the no-op of a rejected word. -/
theorem reservedFunctionFieldsAreUnrecognised : Obligations.ReservedFunctionFieldsAreUnrecognised := by
  rintro w _ rfl
  refine ⟨?_, execWord_reportsOnly⟩
  have hiff : decode w = .error .unassignedFunction ↔ ReservedFunction w := by simp [decode_eq_error_iff]
  exact hiff

end Sys2Proof
end

section
/-! The fields and the immediate of every word (30_encoding.md R81 to R93). -/

namespace Sys2Proof

/-! ### Fields as masks and shifts (R81 to R86) -/

/-- R81: the `l` bits from bit `s` on, at the bottom of a word, are a shift and a mask of it. -/
theorem setWidth_extract_eq_shift_and (w : Word) (s l : Nat) :
    (w.extractLsb' s l).setWidth 32 = (w >>> s) &&& BitVec.ofNat 32 (2 ^ l - 1) := by
  apply BitVec.eq_of_getLsbD_eq
  intro i hi
  rw [BitVec.getLsbD_and, BitVec.getLsbD_ofNat, Nat.testBit_two_pow_sub_one]
  simp [hi, Bool.and_comm]

/-- Settles O1: each field by its lowest bit and its width. -/
theorem fieldsAreMasksAndShifts : Obligations.FieldsAreMasksAndShifts := by
  intro w
  have hop := setWidth_extract_eq_shift_and w 0 7
  rw [BitVec.ushiftRight_zero] at hop
  exact ⟨rfl, hop, setWidth_extract_eq_shift_and w 7 5, setWidth_extract_eq_shift_and w 12 3,
    setWidth_extract_eq_shift_and w 15 5, setWidth_extract_eq_shift_and w 20 5, setWidth_extract_eq_shift_and w 25 7⟩

/-! ### The sign of an immediate is bit 31 of the word (R87 to R91) -/

theorem msb_immFieldI (w : Word) : (immFieldI w).msb = w.getLsbD 31 := by
  simp only [BitVec.msb_eq_getLsbD_last, immFieldI, BitVec.getLsbD_extractLsb']; simp

theorem msb_immFieldS (w : Word) : (immFieldS w).msb = w.getLsbD 31 := by
  simp only [BitVec.msb_eq_getLsbD_last, immFieldS, BitVec.getLsbD_append, BitVec.getLsbD_extractLsb']; simp

theorem msb_immFieldB (w : Word) : (immFieldB w).msb = w.getLsbD 31 := by
  simp only [BitVec.msb_eq_getLsbD_last, immFieldB, BitVec.getLsbD_append, BitVec.getLsbD_extractLsb']; simp

theorem msb_immFieldJ (w : Word) : (immFieldJ w).msb = w.getLsbD 31 := by
  simp only [BitVec.msb_eq_getLsbD_last, immFieldJ, BitVec.getLsbD_append, BitVec.getLsbD_extractLsb']; simp

/-! ### The bits of an immediate -/

/-- R87: sign extension of the top 12 bits is an arithmetic shift. -/
theorem sext12_immFieldI (w : Word) : sext12 (immFieldI w) = w.sshiftRight 20 := by
  apply BitVec.eq_of_getLsbD_eq
  intro i hi
  rw [sext12, BitVec.getLsbD_signExtend, msb_immFieldI, immFieldI, BitVec.getLsbD_extractLsb', BitVec.getLsbD_sshiftRight,
    BitVec.msb_eq_getLsbD_last]
  interval_cases i <;> simp

/-- R88. -/
theorem getLsbD_sext12_immFieldS (w : Word) (i : Nat) (hi : i < 32) : (sext12 (immFieldS w)).getLsbD i =
    if i < 5 then w.getLsbD (i + 7) else if i < 12 then w.getLsbD (i + 20) else w.getLsbD 31 := by
  rw [sext12, BitVec.getLsbD_signExtend, msb_immFieldS]
  simp only [immFieldS, BitVec.getLsbD_append, BitVec.getLsbD_extractLsb']
  interval_cases i <;> simp

/-- R89. -/
theorem getLsbD_sext13_immFieldB (w : Word) (i : Nat) (hi : i < 32) : (sext13 (immFieldB w)).getLsbD i =
    if i = 0 then false else if i < 5 then w.getLsbD (i + 7) else if i < 11 then w.getLsbD (i + 20)
    else if i = 11 then w.getLsbD 7 else w.getLsbD 31 := by
  rw [sext13, BitVec.getLsbD_signExtend, msb_immFieldB]
  simp only [immFieldB, BitVec.getLsbD_append, BitVec.getLsbD_extractLsb']
  interval_cases i <;> simp

/-- R90. -/
theorem upperImm_immFieldU (w : Word) : upperImm (immFieldU w) = w &&& 0xFFFFF000#32 := by
  apply BitVec.eq_of_getLsbD_eq
  intro i hi
  simp only [upperImm, immFieldU, BitVec.getLsbD_append, BitVec.getLsbD_extractLsb', BitVec.getLsbD_and]
  interval_cases i <;> simp

/-- R91. -/
theorem getLsbD_sext21_immFieldJ (w : Word) (i : Nat) (hi : i < 32) : (sext21 (immFieldJ w)).getLsbD i =
    if i = 0 then false else if i < 11 then w.getLsbD (i + 20) else if i = 11 then w.getLsbD 20
    else if i < 20 then w.getLsbD i else w.getLsbD 31 := by
  rw [sext21, BitVec.getLsbD_signExtend, msb_immFieldJ]
  simp only [immFieldJ, BitVec.getLsbD_append, BitVec.getLsbD_extractLsb']
  interval_cases i <;> simp

/-! ### The range of an immediate -/

/-- R10: sign extension keeps the signed value. -/
theorem toInt_signExtend_range {k : Nat} (hk : k ≤ 32) (v : BitVec k) :
    -2 ^ (k - 1) ≤ (v.signExtend 32).toInt ∧ (v.signExtend 32).toInt < 2 ^ (k - 1) := by
  rw [BitVec.toInt_signExtend_of_le hk]
  exact ⟨BitVec.le_toInt v, BitVec.toInt_lt⟩

/-- R87, R88. -/
theorem sext12_range (imm : BitVec 12) : -2048 ≤ (sext12 imm).toInt ∧ (sext12 imm).toInt ≤ 2047 := by
  obtain ⟨hlo, hhi⟩ := toInt_signExtend_range (by omega) imm
  exact ⟨hlo, Int.le_of_lt_add_one hhi⟩

/-- R89: an even value below 4096 is at most 4094. -/
theorem sext13_immFieldB_range (w : Word) : -4096 ≤ (sext13 (immFieldB w)).toInt ∧ (sext13 (immFieldB w)).toInt ≤ 4094 ∧
    (sext13 (immFieldB w)).toInt % 2 = 0 := by
  obtain ⟨hlo, hhi⟩ := toInt_signExtend_range (by omega) (immFieldB w)
  have heven := Machine.sext13_immFieldB_even w
  unfold sext13 at *
  omega

/-- R91: an even value below 2^20 is at most 2^20 - 2. -/
theorem sext21_immFieldJ_range (w : Word) : -1048576 ≤ (sext21 (immFieldJ w)).toInt ∧
    (sext21 (immFieldJ w)).toInt ≤ 1048574 ∧ (sext21 (immFieldJ w)).toInt % 2 = 0 := by
  obtain ⟨hlo, hhi⟩ := toInt_signExtend_range (by omega) (immFieldJ w)
  have heven := Machine.sext21_immFieldJ_even w
  unfold sext21 at *
  omega

/-- R90: the low 12 bits are 0, so the greatest value is 4096 below 2^31. -/
theorem upperImm_range (imm20 : BitVec 20) : (upperImm imm20).toInt % 4096 = 0 ∧ -(2 : Int) ^ 31 ≤ (upperImm imm20).toInt ∧
    (upperImm imm20).toInt ≤ 2 ^ 31 - 4096 := by
  have hnat : (upperImm imm20).toNat = imm20.toNat * 4096 := by
    rw [upperImm, BitVec.toNat_append, Nat.shiftLeft_eq]
    simp
  have hmul : (upperImm imm20).toInt % 4096 = 0 := by
    rw [BitVec.toInt_eq_toNat_cond, hnat]
    split <;> omega
  have hlo := BitVec.le_toInt (upperImm imm20)
  have hhi := BitVec.toInt_lt (x := upperImm imm20)
  omega

/-! ### The immediate and the format of a word -/

theorem imm_of_format {w : Word} {f : Format} (h : (decodeRecord w).format = f) :
    (decodeRecord w).imm = immediateOf f w := h ▸ rfl

/-- Settles O2, by the format: the bits of the immediate and its range. -/
theorem immediateOfEveryFormat : Obligations.ImmediateOfEveryFormat := by
  rintro w _ rfl
  refine ⟨fun h => ?_, fun h => ?_, fun h => ?_, fun h => ?_, fun h => ?_⟩ <;> rw [imm_of_format h]
  · exact ⟨sext12_immFieldI w, sext12_range _⟩
  · exact ⟨getLsbD_sext12_immFieldS w, sext12_range _⟩
  · exact ⟨getLsbD_sext13_immFieldB w, sext13_immFieldB_range w⟩
  · exact ⟨upperImm_immFieldU w, upperImm_range _⟩
  · exact ⟨getLsbD_sext21_immFieldJ w, sext21_immFieldJ_range w⟩

/-- Settles O3: by the opcode, and the formats R and Unknown have no immediate. -/
theorem formatIsAFunctionOfTheOpcode : Obligations.FormatIsAFunctionOfTheOpcode := by
  refine ⟨fun _ => rfl, fun op => ?_, ?_⟩
  · obtain h | rfl | rfl | rfl | rfl | rfl | rfl | rfl | rfl | rfl | rfl | rfl := opcode_cases op
    · rw [formatOf_eq_unknown_iff.mpr h]
      simp only [knownOpcodes, List.mem_cons, List.not_mem_nil, or_false, not_or] at h
      simp [h]
    all_goals decide
  · rintro w (h | h) <;> rw [imm_of_format h] <;> rfl

end Sys2Proof
end

section
/-! The engine's step (40_engine.md R123 to R130): the handler of a decoded instruction, the steps that execute no word, the reported
no-op, and the clamp of x0. -/

namespace Sys2Proof.Machine

variable {s t u : State} {w : Word}

/-! ### A fetched word (R123 lines 2 to 5, R130) -/

/-- R123 lines 2 to 5: what a step makes of a fetched word whose handler leaves `u`. -/
theorem step_of_fetches (hf : s.Fetches w) (hu : execWord w s.beginHandler = .next u) : step s = .next u.endHandler :=
  step_of_fetchOrEnd_ok hf.1 (fetchOrEnd_of_fetches hf) hu

/-- Settles O9: the handler is `exec`; the statement's case split on the status is `State.endHandler` written out. -/
theorem stepRunsTheDecodedInstruction : Obligations.StepRunsTheDecodedInstruction := by
  intro s w i hf hw
  obtain ⟨t, ht, _⟩ := exec_effect s.beginHandler i
  exact ⟨t, ht, step_of_fetches hf ((execWord_of_ok hw).trans ht)⟩

/-- R127: the clamp is no part of what a report is seen to change. -/
theorem ReportsOnly.endHandler {k : ErrorKind} (h : ReportsOnly s u k) : ReportsOnly s u.endHandler k := by
  obtain ⟨hres, hpc, hregs, hmem, hcfg, hst, hout⟩ := h
  exact ⟨by simpa using hres, by simpa using hpc, fun r => by simpa using hregs r,
    fun a => (byteAt_of_mem State.endHandler_mem a).trans (hmem a), by simpa using hcfg, by simpa using hst, by simpa using hout⟩

/-- Settles O13: the no-op of `execWord_reportsOnly`, then the clamp; the three words have an opcode that is none or, the last, an
unassigned funct7. -/
theorem unrecognisedWordIsAReportedNoOp : Obligations.UnrecognisedWordIsAReportedNoOp := by
  refine ⟨fun s w e hf hw => ?_, ⟨.unknownOpcode, by decide⟩, ⟨.unknownOpcode, by decide⟩, ⟨.unassignedFunction, by decide⟩⟩
  have ⟨_, hs, _⟩ := hf
  obtain ⟨u, hu, hrep⟩ := execWord_reportsOnly hw s.beginHandler
  have hend : ReportsOnly s u.endHandler .decodeUnknownOpcode := ReportsOnly.endHandler hrep
  have ⟨_, _, _, _, _, hst, _⟩ := hend
  exact ⟨u.endHandler, step_of_fetches hf hu, hend, hst.trans hs⟩

/-! ### A stopped engine (R124) -/

theorem step_of_not_running (hc : s.ConfigInRange) (h : s.status ≠ .running) : step s = .next s.stopped :=
  step_of_fetchOrEnd_error hc (fetchOrEnd_of_not_running h)

/-- R124: however often a stopped engine is stepped, at most the result changes. -/
theorem State.Reaches.eq_or_eq_stopped (hc : s.ConfigInRange) (h : s.status ≠ .running) (hr : s.Reaches t) :
    t = s ∨ t = s.stopped := by
  induction hr with
  | here => exact .inl rfl
  | step _ last ih =>
    right
    obtain rfl | rfl := ih
    · exact Host.Outcome.next.inj (last.symm.trans (step_of_not_running hc h))
    · exact Host.Outcome.next.inj (last.symm.trans (step_of_not_running (s := s.stopped) hc h))

/-- Settles O10, by induction on the number of steps. -/
theorem stoppedEngineStaysStopped : Obligations.StoppedEngineStaysStopped :=
  fun _ hc h => ⟨step_of_not_running hc h, fun _ => State.Reaches.eq_or_eq_stopped hc h⟩

/-! ### The end of the program (R125) -/

theorem step_of_length_le (hc : s.ConfigInRange) (hs : s.status = .running) (hl : (s.cfg.prog.length : Int) ≤ s.pcWord) :
    step s = .next s.runOffEnd :=
  step_of_fetchOrEnd_error hc (fetchOrEnd_of_length_le hs hl)

/-- Settles O12: an empty program is run off at index 0, where reset leaves pc_word. -/
theorem runningOffTheEndHalts : Obligations.RunningOffTheEndHalts := by
  refine ⟨fun s hc hs hl _ => step_of_length_le hc hs hl, fun c hc hp => ?_⟩
  have hl : ((State.resetWith c).cfg.prog.length : Int) ≤ (State.resetWith c).pcWord := by simp [State.resetWith, hp]
  exact ⟨_, step_of_length_le hc rfl hl, rfl, rfl⟩

/-! ### The clamp (R127) -/

/-- R284: of the shapes an instruction leaves, only the failure has the status Faulted, and it leaves the register file. -/
theorem ExecEffect.regs_of_faulted {i : Instr} {k : ErrorKind} {n : Int} (he : ExecEffect i s u) (hs : s.status = .running)
    (hu : u.status = .faulted k n) : u.regs = s.regs := by
  cases he with
  | raised => rfl
  | _ => simp [hs] at hu

/-- D39: a step that ends with the status Faulted runs no clamp and leaves the register file. -/
theorem step_regs_of_faulted {k : ErrorKind} {n : Int} (hf : s.Fetches w) (h : step s = .next t) (ht : t.status = .faulted k n) :
    t.regs = s.regs := by
  have hs : s.beginHandler.status = .running := hf.2.1
  obtain ⟨u, rfl, hcases⟩ := step_next_of_fetches hf h
  have hu : u.status = .faulted k n := by simpa using ht
  have hend : u.endHandler = u := by simp [State.endHandler, hu]
  rw [hend]
  obtain ⟨i, _, he⟩ | ⟨_, rfl⟩ := hcases
  · exact (exec_next _ he).regs_of_faulted hs hu
  · rfl

/-- R123 lines 0 and 1: a step that fetches no word leaves the register file. -/
theorem step_regs_of_not_fetches (hf : ¬ ∃ w, s.Fetches w) (h : step s = .next t) : t.regs = s.regs := by
  obtain ⟨_, rfl⟩ | ⟨_, _, rfl⟩ | ⟨_, _, rfl⟩ | hw := step_next_cases h
  · rfl
  · rfl
  · rfl
  · exact absurd hw hf

/-- Settles O18, by whether the step fetches a word and whether its handler raised. -/
theorem clampAfterEveryExecutedInstruction : Obligations.ClampAfterEveryExecutedInstruction :=
  fun _ t h => ⟨readReg_zero t, fun ⟨_, hf⟩ ht => step_stored_of_fetches hf h ht, fun hf => step_regs_of_not_fetches hf h,
    fun ⟨_, hf⟩ ⟨_, _, ht⟩ => step_regs_of_faulted hf h ht⟩

end Sys2Proof.Machine
end

section
/-! The register dump (40_engine.md R121): 32 chunks of four bytes, one register each. -/

namespace Sys2Proof.Machine

/-- In a list made of chunks of `k` entries, entry `k * i + j` is entry `j` of chunk `i`. -/
theorem getElem?_flatMap_of_length {α β : Type} {f : α → List β} {k : Nat} (hf : ∀ a, (f a).length = k) {j : Nat} (hj : j < k)
    (l : List α) (i : Nat) : (l.flatMap f)[k * i + j]? = l[i]?.bind fun a => (f a)[j]? := by
  induction l generalizing i with
  | nil => simp
  | cons a l ih =>
    rw [List.flatMap_cons]
    cases i with
    | zero => simp [List.getElem?_append_left, hf, hj]
    | succ i =>
      have hsplit : k * (i + 1) + j = k + (k * i + j) := by ring
      rw [hsplit, List.getElem?_append_right (by simp [hf]), hf, Nat.add_sub_cancel_left, ih, List.getElem?_cons_succ]

theorem length_bigEndianBytes (v : Word) : (bigEndianBytes v).length = 4 := rfl

/-- R121: byte `j` of a word from the most significant on. -/
theorem getElem?_bigEndianBytes (v : Word) {j : Nat} (hj : j < 4) :
    (bigEndianBytes v)[j]? = some (v.extractLsb' (24 - 8 * j) 8) := by
  match j, hj with
  | 0, _ => rfl
  | 1, _ => rfl
  | 2, _ => rfl
  | 3, _ => rfl

theorem length_registerDump (s : State) : s.registerDump.length = 128 := by
  simp [State.registerDump, List.length_flatMap, length_bigEndianBytes]

theorem getElem?_registerDump (s : State) {i j : Nat} (hi : i < 32) (hj : j < 4) :
    s.registerDump[4 * i + j]? = some ((s.readReg (BitVec.ofNat 5 i)).extractLsb' (24 - 8 * j) 8) := by
  rw [State.registerDump, getElem?_flatMap_of_length (fun _ => length_bigEndianBytes _) hj, List.getElem?_range hi,
    Option.bind_some, getElem?_bigEndianBytes _ hj]

/-- The dump starts with x0, which reads 0. -/
theorem take_four_registerDump (s : State) : s.registerDump.take 4 = [0#8, 0#8, 0#8, 0#8] := by
  have hx0 : s.registerDump.take 4 = bigEndianBytes (s.readReg 0#5) := rfl
  rw [hx0, readReg_zero]
  rfl

/-- Settles O56: 32 chunks of four bytes, each a register, the first x0. -/
theorem registerDumpIsBigEndian : Obligations.RegisterDumpIsBigEndian :=
  fun s => ⟨length_registerDump s, fun _ _ => getElem?_registerDump s, take_four_registerDump s⟩

end Sys2Proof.Machine
end

section
/-! SUPPORT. Words given as their fields side by side (30_encoding.md R94), and the results of the register-register instructions
(41_r_type.md R151 to R160) over integers. -/

namespace Sys2Proof

/-- R94, R111: the six fields of format R side by side are the word the encoder makes of them. -/
theorem append_eq_encR (f7 : BitVec 7) (rs2 rs1 : Reg) (f3 : BitVec 3) (rd : Reg) (op : BitVec 7) :
    f7 ++ rs2 ++ rs1 ++ f3 ++ rd ++ op = encR f7 rs2 rs1 f3 rd op := by
  apply BitVec.eq_of_getLsbD_eq
  intro i hi
  simp only [encR, place, BitVec.getLsbD_append, BitVec.getLsbD_or, BitVec.getLsbD_shiftLeft, BitVec.getLsbD_setWidth]
  interval_cases i <;> simp

/-- An instruction encoded in format R is what its fields side by side decode to. -/
theorem decode_append_of_encode {i : Instr} {f7 : BitVec 7} {rs2 rs1 : Reg} {f3 : BitVec 3} {rd : Reg} {op : BitVec 7}
    (h : encode i = encR f7 rs2 rs1 f3 rd op) (hwf : i.wellFormed = true) :
    decode (f7 ++ rs2 ++ rs1 ++ f3 ++ rd ++ op) = .ok i := by
  rw [append_eq_encR, ← h, decode_encode hwf]

namespace Machine

variable (a b : Word)

/-- R151: addition modulo 2^32. -/
theorem add_eq_ofInt : a + b = BitVec.ofInt 32 (a.toInt + b.toInt) := by
  simp only [BitVec.ofInt_add, BitVec.ofInt_toInt]

/-- R152: subtraction modulo 2^32. -/
theorem sub_eq_ofInt : a - b = BitVec.ofInt 32 (a.toInt - b.toInt) := by
  rw [← BitVec.toInt_inj, BitVec.toInt_sub, BitVec.toInt_ofInt]

/-- R153: the low 5 bits are the remainder by 32. -/
theorem shiftCount_eq_mod : shiftCount a = a.toNat % 32 := by
  simp [shiftCount, BitVec.extractLsb'_toNat]

/-- R153: a left shift multiplies by a power of two, modulo 2^32. -/
theorem shiftLeft_eq_ofNat (n : Nat) : a <<< n = BitVec.ofNat 32 (a.toNat * 2 ^ n) := by
  rw [← BitVec.toNat_inj, BitVec.toNat_shiftLeft, BitVec.toNat_ofNat, Nat.shiftLeft_eq]

/-- R157: a logical right shift divides the unsigned value by a power of two. -/
theorem ushiftRight_eq_ofNat (n : Nat) : a >>> n = BitVec.ofNat 32 (a.toNat / 2 ^ n) := by
  rw [← Nat.shiftRight_eq_div_pow, ← BitVec.toNat_ushiftRight, BitVec.ofNat_toNat, BitVec.setWidth_eq]

/-- R158: an arithmetic right shift divides the signed value by a power of two, rounding down. -/
theorem sshiftRight_eq_ofInt (n : Nat) : a.sshiftRight n = BitVec.ofInt 32 (a.toInt / 2 ^ n) := by
  have h : (a.sshiftRight n).toInt = a.toInt / 2 ^ n := by
    rw [BitVec.toInt_sshiftRight, Int.shiftRight_eq_div_pow]
    norm_cast
  rw [← h, BitVec.ofInt_toInt]

/-- R154: the signed comparison as 1 or 0. -/
theorem boolWord_signedLess : boolWord (signedLess a b) = if a.toInt < b.toInt then 1#32 else 0#32 := by
  simp only [boolWord, signedLess, BitVec.slt_iff_toInt_lt]

/-- R155: the unsigned comparison as 1 or 0. -/
theorem boolWord_unsignedLess : boolWord (unsignedLess a b) = if a.toNat < b.toNat then 1#32 else 0#32 := by
  simp only [boolWord, unsignedLess, BitVec.ult_iff_toNat_lt]

/-- R150, R170: an instruction whose meaning is to write `v` to rd has the frame of `WritesOnly`, for any other form `v'` of `v`. -/
theorem exists_next_writesOnly {i : Instr} {s : State} {rd : Reg} {v v' : Word} (h : exec i s = .next (s.writeResult rd v))
    (hv : v = v') : ∃ t, exec i s = .next t ∧ WritesOnly s t rd v' (s.pcWord + 1) :=
  ⟨s.writeResult rd v, h, hv ▸ writeResult_writesOnly s rd v⟩

end Machine
end Sys2Proof
end

section
/-! The register-register instructions (41_r_type.md): the words of each, its result, and that it changes nothing else. -/

namespace Sys2Proof.Machine

/-- Settles O28: the sum and the difference of the signed readings, modulo 2^32. -/
theorem addAndSubWrap : Obligations.AddAndSubWrap := by
  intro rd rs1 rs2 s
  refine ⟨decode_append_of_encode rfl rfl, ?_, decode_append_of_encode rfl rfl, ?_⟩
  · exact exists_next_writesOnly rfl (add_eq_ofInt _ _)
  · exact exists_next_writesOnly rfl (sub_eq_ofInt _ _)

/-- Settles O29: the count is the remainder by 32, and each shift a product or a quotient by a power of two. -/
theorem registerShiftsUseLowFiveBits : Obligations.RegisterShiftsUseLowFiveBits := by
  intro rd rs1 rs2 s sh hsh
  obtain rfl : shiftCount (s.readReg rs2) = sh := (shiftCount_eq_mod _).trans hsh
  refine ⟨decode_append_of_encode rfl rfl, ?_, decode_append_of_encode rfl rfl, ?_, decode_append_of_encode rfl rfl, ?_⟩
  · exact exists_next_writesOnly rfl (shiftLeft_eq_ofNat _ _)
  · exact exists_next_writesOnly rfl (ushiftRight_eq_ofNat _ _)
  · exact exists_next_writesOnly rfl (sshiftRight_eq_ofInt _ _)

/-- Settles O30: the comparison of the signed and of the unsigned readings, as 1 or 0. -/
theorem setLessThanSignedAndUnsigned : Obligations.SetLessThanSignedAndUnsigned := by
  intro rd rs1 rs2 s
  refine ⟨decode_append_of_encode rfl rfl, ?_, decode_append_of_encode rfl rfl, ?_⟩
  · exact exists_next_writesOnly rfl (boolWord_signedLess _ _)
  · exact exists_next_writesOnly rfl (boolWord_unsignedLess _ _)

/-- Settles O31: bit `i` of the word written is the operation on bit `i` of each operand. -/
theorem registerLogicIsBitwise : Obligations.RegisterLogicIsBitwise := by
  intro rd rs1 rs2 s
  refine ⟨decode_append_of_encode rfl rfl, ?_, decode_append_of_encode rfl rfl, ?_, decode_append_of_encode rfl rfl, ?_⟩
  · exact ⟨_, s.readReg rs1 ^^^ s.readReg rs2, rfl, writeResult_writesOnly s rd _, fun _ => BitVec.getLsbD_xor⟩
  · exact ⟨_, s.readReg rs1 ||| s.readReg rs2, rfl, writeResult_writesOnly s rd _, fun _ => BitVec.getLsbD_or⟩
  · exact ⟨_, s.readReg rs1 &&& s.readReg rs2, rfl, writeResult_writesOnly s rd _, fun _ => BitVec.getLsbD_and⟩

end Sys2Proof.Machine
end

section
/-! SUPPORT. Words of format I given as their fields side by side (30_encoding.md R94), and the sign-extended 12-bit immediate as
an integer and bit by bit (00_scope.md R10, 42_i_arith.md R170). -/

namespace Sys2Proof

/-- R94, R111: the five fields of format I side by side are the word the encoder makes of them. -/
theorem append_eq_encI (imm : BitVec 12) (rs1 : Reg) (f3 : BitVec 3) (rd : Reg) (op : BitVec 7) :
    imm ++ rs1 ++ f3 ++ rd ++ op = encI imm rs1 f3 rd op := by
  apply BitVec.eq_of_getLsbD_eq
  intro i hi
  simp only [encI, place, BitVec.getLsbD_append, BitVec.getLsbD_or, BitVec.getLsbD_shiftLeft, BitVec.getLsbD_setWidth]
  interval_cases i <;> simp

/-- An instruction encoded in format I is what its fields side by side decode to. -/
theorem decode_append_of_encode_encI {i : Instr} {imm : BitVec 12} {rs1 : Reg} {f3 : BitVec 3} {rd : Reg} {op : BitVec 7}
    (h : encode i = encI imm rs1 f3 rd op) (hwf : i.wellFormed = true) : decode (imm ++ rs1 ++ f3 ++ rd ++ op) = .ok i := by
  rw [append_eq_encI, ← h, decode_encode hwf]

variable (imm : BitVec 12)

/-- R10: sign extension keeps the signed value. -/
theorem toInt_sext12 : (sext12 imm).toInt = imm.toInt :=
  BitVec.toInt_signExtend_of_le (by omega)

/-- R173: the unsigned value of the sign-extended immediate is the signed value modulo 2^32. -/
theorem toNat_sext12 : ((sext12 imm).toNat : Int) = imm.toInt % 2 ^ 32 := by
  have hlt := (sext12 imm).isLt
  rw [← toInt_sext12, BitVec.toInt_eq_toNat_cond]
  split <;> omega

/-- R10: bit 11 stands for every bit above it. -/
theorem getLsbD_sext12 {i : Nat} (hi : i < 32) : (sext12 imm).getLsbD i = imm.getLsbD (min i 11) := by
  rw [sext12, BitVec.getLsbD_signExtend, decide_eq_true hi, Bool.true_and]
  split
  · rw [min_eq_left (by omega)]
  · rw [min_eq_right (by omega), BitVec.msb_eq_getLsbD_last]

end Sys2Proof
end

section
/-! The register-immediate instructions (42_i_arith.md): the words of each, its result, and that it changes nothing else. -/

namespace Sys2Proof.Machine

variable (a : Word) (imm : BitVec 12)

/-- R171: the sum with the signed immediate, modulo 2^32. -/
theorem add_sext12_eq_ofInt : a + sext12 imm = BitVec.ofInt 32 (a.toInt + imm.toInt) := by
  rw [add_eq_ofInt, toInt_sext12]

/-- R172: the comparison with the signed immediate as 1 or 0. -/
theorem boolWord_signedLess_sext12 : boolWord (signedLess a (sext12 imm)) = if a.toInt < imm.toInt then 1#32 else 0#32 := by
  rw [boolWord_signedLess, toInt_sext12]

/-- R173: the unsigned comparison is with the immediate modulo 2^32. -/
theorem boolWord_unsignedLess_sext12 :
    boolWord (unsignedLess a (sext12 imm)) = if (a.toNat : Int) < imm.toInt % 2 ^ 32 then 1#32 else 0#32 := by
  simp only [boolWord_unsignedLess, ← toNat_sext12, Nat.cast_lt]

/-- Settles O32: the immediate is sign-extended, then added, compared signed and compared unsigned. -/
theorem immediateAddAndCompare : Obligations.ImmediateAddAndCompare := by
  intro rd rs1 imm s
  refine ⟨decode_append_of_encode_encI rfl rfl, ?_, decode_append_of_encode_encI rfl rfl, ?_,
    decode_append_of_encode_encI rfl rfl, ?_⟩
  · exact exists_next_writesOnly rfl (add_sext12_eq_ofInt _ _)
  · exact exists_next_writesOnly rfl (boolWord_signedLess_sext12 _ _)
  · exact exists_next_writesOnly rfl (boolWord_unsignedLess_sext12 _ _)

/-- Settles O33: bit `i` of the word written is the operation on bit `i` of x[rs1] and of the sign-extended immediate. -/
theorem immediateLogicIsBitwise : Obligations.ImmediateLogicIsBitwise := by
  intro rd rs1 imm s
  refine ⟨decode_append_of_encode_encI rfl rfl, ?_, decode_append_of_encode_encI rfl rfl, ?_,
    decode_append_of_encode_encI rfl rfl, ?_⟩
  · refine ⟨_, s.readReg rs1 ^^^ sext12 imm, rfl, writeResult_writesOnly s rd _, fun i hi => ?_⟩
    rw [BitVec.getLsbD_xor, getLsbD_sext12 imm hi]
  · refine ⟨_, s.readReg rs1 ||| sext12 imm, rfl, writeResult_writesOnly s rd _, fun i hi => ?_⟩
    rw [BitVec.getLsbD_or, getLsbD_sext12 imm hi]
  · refine ⟨_, s.readReg rs1 &&& sext12 imm, rfl, writeResult_writesOnly s rd _, fun i hi => ?_⟩
    rw [BitVec.getLsbD_and, getLsbD_sext12 imm hi]

/-- Settles O34: the words are of format R with the count in place of rs2, and each shift is a product or a quotient by a power of
two. -/
theorem immediateShifts : Obligations.ImmediateShifts := by
  intro rd rs1 shamt s
  refine ⟨decode_append_of_encode rfl rfl, ?_, decode_append_of_encode rfl rfl, ?_, decode_append_of_encode rfl rfl, ?_⟩
  · exact exists_next_writesOnly rfl (shiftLeft_eq_ofNat _ _)
  · exact exists_next_writesOnly rfl (ushiftRight_eq_ofNat _ _)
  · exact exists_next_writesOnly rfl (sshiftRight_eq_ofInt _ _)

end Sys2Proof.Machine
end

section
/-! SUPPORT. The address of a load and the two ways it widens what it reads, over integers (43_load.md R190, 20_memory.md R56), and
what an instruction that is a load does in and out of bounds. -/

namespace Sys2Proof.Machine

/-! ### Address and value over integers -/

/-- R190, R200: the sum of the signed base and the signed displacement, modulo 2^32. -/
theorem effectiveAddress_eq_ofInt (s : State) (rs1 : Reg) (imm : BitVec 12) :
    s.effectiveAddress rs1 imm = BitVec.ofInt 32 ((s.readReg rs1).toInt + imm.toInt) :=
  add_sext12_eq_ofInt _ _

/-- R56: the signed value of the byte, modulo 2^32. -/
theorem sextByte_setWidth (b : Byte) : sextByte (b.setWidth 32) = BitVec.ofInt 32 b.toInt := by
  rw [sextByte, BitVec.setWidth_setWidth_of_le b (by decide), BitVec.setWidth_eq, BitVec.signExtend]

/-- R56: the signed value of the halfword, modulo 2^32. -/
theorem sextHalf_setWidth (h : BitVec 16) : sextHalf (h.setWidth 32) = BitVec.ofInt 32 h.toInt := by
  rw [sextHalf, BitVec.setWidth_setWidth_of_le h (by decide), BitVec.setWidth_eq, BitVec.signExtend]

/-- R56: the unsigned value of the byte. -/
theorem zextByte_setWidth (b : Byte) : zextByte (b.setWidth 32) = BitVec.ofNat 32 b.toNat := by
  rw [zextByte, BitVec.setWidth_setWidth_of_le b (by decide), BitVec.setWidth_eq, BitVec.ofNat_toNat]

/-- R56: the unsigned value of the halfword. -/
theorem zextHalf_setWidth (h : BitVec 16) : zextHalf (h.setWidth 32) = BitVec.ofNat 32 h.toNat := by
  rw [zextHalf, BitVec.setWidth_setWidth_of_le h (by decide), BitVec.setWidth_eq, BitVec.ofNat_toNat]

/-! ### An instruction that is a load -/

variable {i : Instr} {s : State} {rd rs1 : Reg} {imm : BitVec 12} {n : Nat} {ext : Word → Word}

/-- R190: in bounds a load writes the widened value to rd and changes nothing else but pc_word. -/
theorem exists_next_load_writesOnly {v : Word} (h : exec i s = .next (s.loadInto rd rs1 imm n ext))
    (hb : s.InBounds (s.effectiveAddress rs1 imm) n)
    (hv : ext (s.mem.readLE (s.effectiveAddress rs1 imm).toNat n) = v) :
    ∃ t, exec i s = .next t ∧ WritesOnly s t rd v (s.pcWord + 1) := by
  rw [loadInto_inBounds s rd rs1 imm n ext hb] at h
  exact exists_next_writesOnly h hv

/-- R190, R284: out of bounds a load only fails. -/
theorem exists_next_load_failsWith (h : exec i s = .next (s.loadInto rd rs1 imm n ext))
    (hb : s.cfg.memSize < (s.effectiveAddress rs1 imm).toNat + n) :
    ∃ t, exec i s = .next t ∧ FailsWith s t .outOfBoundsMemoryAccess := by
  rw [loadInto_outOfBounds s rd rs1 imm n ext (Nat.not_le.mpr hb)] at h
  exact ⟨_, h, raise_failsWith s _⟩

end Sys2Proof.Machine
end

section
/-! The loads (43_load.md): the words of each, its result at any alignment, that it changes nothing else, and where it fails. -/

namespace Sys2Proof.Machine

/-- Settles O37: the byte read, by its signed and by its unsigned value. -/
theorem loadByteSignedAndUnsigned : Obligations.LoadByteSignedAndUnsigned := by
  rintro rd rs1 imm s addr rfl
  refine ⟨effectiveAddress_eq_ofInt s rs1 imm, decode_append_of_encode_encI rfl rfl, decode_append_of_encode_encI rfl rfl,
    fun hin => ⟨?_, ?_⟩, fun hout => ⟨?_, ?_⟩⟩
  · refine exists_next_load_writesOnly rfl hin ?_
    rw [Memory.readLE_one, sextByte_setWidth, State.byteAt]
  · refine exists_next_load_writesOnly rfl hin ?_
    rw [Memory.readLE_one, zextByte_setWidth, State.byteAt]
  · exact exists_next_load_failsWith rfl (Nat.lt_succ_of_le hout)
  · exact exists_next_load_failsWith rfl (Nat.lt_succ_of_le hout)

/-- Settles O38: the two bytes read as one halfword, by its signed and by its unsigned value. -/
theorem loadHalfwordSignedAndUnsigned : Obligations.LoadHalfwordSignedAndUnsigned := by
  rintro rd rs1 imm s addr rfl
  refine ⟨effectiveAddress_eq_ofInt s rs1 imm, decode_append_of_encode_encI rfl rfl, decode_append_of_encode_encI rfl rfl,
    fun hin => ⟨?_, ?_⟩, fun hout => ⟨?_, ?_⟩⟩
  · refine exists_next_load_writesOnly rfl hin ?_
    rw [Memory.readLE_two, sextHalf_setWidth, State.byteAt, State.byteAt]
  · refine exists_next_load_writesOnly rfl hin ?_
    rw [Memory.readLE_two, zextHalf_setWidth, State.byteAt, State.byteAt]
  · exact exists_next_load_failsWith rfl hout
  · exact exists_next_load_failsWith rfl hout

/-- Settles O39: the four bytes read are the whole word, so nothing is widened. -/
theorem loadWordAtAnyAlignment : Obligations.LoadWordAtAnyAlignment := by
  rintro rd rs1 imm s addr rfl
  refine ⟨effectiveAddress_eq_ofInt s rs1 imm, decode_append_of_encode_encI rfl rfl, fun hin => ?_, fun hout => ?_⟩
  · exact exists_next_load_writesOnly rfl hin (Memory.readLE_four _ _)
  · exact exists_next_load_failsWith rfl hout

end Sys2Proof.Machine
end

section
/-! SUPPORT. Words of format S given as their fields side by side (30_encoding.md R94), what an instruction that is a store does in and
out of bounds, which bytes of memory an instruction and a step may change (44_store.md R200), and a word read back where it was
written. -/

namespace Sys2Proof

/-- R94, R111: the six fields of format S side by side are the word the encoder makes of them. -/
theorem append_eq_encS (imm : BitVec 12) (rs2 rs1 : Reg) (f3 : BitVec 3) (op : BitVec 7) :
    imm.extractLsb' 5 7 ++ rs2 ++ rs1 ++ f3 ++ imm.extractLsb' 0 5 ++ op = encS imm rs2 rs1 f3 op :=
  append_eq_encR (imm.extractLsb' 5 7) rs2 rs1 f3 (imm.extractLsb' 0 5) op

/-- An instruction encoded in format S is what its fields side by side decode to. -/
theorem decode_append_of_encode_encS {i : Instr} {imm : BitVec 12} {rs2 rs1 : Reg} {f3 : BitVec 3} {op : BitVec 7}
    (h : encode i = encS imm rs2 rs1 f3 op) (hwf : i.wellFormed = true) :
    decode (imm.extractLsb' 5 7 ++ rs2 ++ rs1 ++ f3 ++ imm.extractLsb' 0 5 ++ op) = .ok i := by
  rw [append_eq_encS, ← h, decode_encode hwf]

namespace Machine

variable {i : Instr} {s t : State} {rs2 rs1 : Reg} {imm : BitVec 12} {n : Nat}

/-! ### An instruction that is a store -/

/-- R200: in bounds a store writes its bytes and changes nothing else but pc_word. -/
theorem exists_next_store_storesOnly (h : exec i s = .next (s.storeFrom rs2 rs1 imm n)) (hw : s.mem.wf = true)
    (hb : s.InBounds (s.effectiveAddress rs1 imm) n) :
    ∃ t, exec i s = .next t ∧ StoresOnly s t (s.effectiveAddress rs1 imm).toNat n (s.readReg rs2) :=
  ⟨_, h, storeFrom_storesOnly s rs2 rs1 imm n hw hb⟩

/-- R200, R284: out of bounds a store only fails. -/
theorem exists_next_store_failsWith (h : exec i s = .next (s.storeFrom rs2 rs1 imm n))
    (hb : s.cfg.memSize < (s.effectiveAddress rs1 imm).toNat + n) :
    ∃ t, exec i s = .next t ∧ FailsWith s t .outOfBoundsMemoryAccess := by
  rw [storeFrom_outOfBounds s rs2 rs1 imm n (Nat.not_le.mpr hb)] at h
  exact ⟨_, h, raise_failsWith s _⟩

/-! ### The bytes an instruction may change -/

/-- R52: a byte that a write changes is one of the bytes written. -/
theorem Memory.between_of_read_writeLE_ne {m : Memory} (h : m.wf = true) {a k : Nat} {v : Word}
    (hne : (m.writeLE a n v).read k ≠ m.read k) : a ≤ k ∧ k < a + n := by
  by_contra hout
  exact hne (read_writeLE_outside h a n v (by omega))

/-- R20, R200: of the shapes an instruction leaves, only a store in bounds changes a byte, and only inside the memory. -/
theorem ExecEffect.store_of_byteAt_ne (he : ExecEffect i s t) (hw : s.mem.wf = true) {a : Nat}
    (hne : t.byteAt a ≠ s.byteAt a) : a < s.cfg.memSize ∧ 0 < i.storeWidth := by
  cases he with
  | stored addr v n hn h0 hb =>
    obtain ⟨_, hlt⟩ := Memory.between_of_read_writeLE_ne hw hne
    exact ⟨hlt.trans_le hb, hn ▸ h0⟩
  | _ => exact absurd (byteAt_of_mem (by simp) a) hne

/-! ### A word read back -/

/-- R50 to R52: the four bytes of a written word give it back. -/
theorem Memory.readLE_writeLE_word {m : Memory} (h : m.wf = true) (a : Nat) (v : Word) :
    (m.writeLE a 4 v).readLE a 4 = v := by
  have hread := readLE_writeLE_inside h a 4 v (i := 0) (n := 4) le_rfl
  have hmask : BitVec.ofNat 32 (2 ^ (8 * 4) - 1) = BitVec.allOnes 32 := rfl
  rwa [Nat.add_zero, Nat.mul_zero, BitVec.ushiftRight_zero, hmask, BitVec.and_allOnes] at hread

end Machine
end Sys2Proof
end

section
/-! The stores (44_store.md): the words of each, the bytes it writes, that it changes nothing else, where it fails, and that no other
instruction changes memory. -/

namespace Sys2Proof.Machine

/-- Settles O40: `storeFrom` with the width of each instruction, on either side of the bound. -/
theorem storesWriteExactlyTheirBytes : Obligations.StoresWriteExactlyTheirBytes := by
  rintro rs2 rs1 imm s addr hw rfl
  refine ⟨effectiveAddress_eq_ofInt s rs1 imm, decode_append_of_encode_encS rfl rfl, decode_append_of_encode_encS rfl rfl,
    decode_append_of_encode_encS rfl rfl, ?_, ?_, ?_, ?_, ?_, ?_⟩
  · exact exists_next_store_storesOnly rfl hw
  · exact exists_next_store_storesOnly rfl hw
  · exact exists_next_store_storesOnly rfl hw
  · exact exists_next_store_failsWith rfl
  · exact exists_next_store_failsWith rfl
  · exact exists_next_store_failsWith rfl

/-- Settles O41: the store leaves the address as it is, and the load reads the four bytes it wrote. -/
theorem storeThenLoadReturnsTheWord : Obligations.StoreThenLoadReturnsTheWord := by
  intro rs2 rs1 rd imm s hw hrd hb
  have hstore := storeFrom_inBounds s rs2 rs1 imm 4 hb
  obtain ⟨u, hu, hread, _⟩ := exists_next_load_writesOnly (i := .lw rd rs1 imm) (s := s.storeFrom rs2 rs1 imm 4)
    (v := s.readReg rs2) rfl (by rw [hstore]; exact hb) (by rw [hstore]; exact Memory.readLE_writeLE_word hw _ _)
  exact ⟨_, u, rfl, hu, hread.trans (if_neg hrd)⟩

/-- Settles O20: a step that executes no word leaves memory alone, and the clamp after a handler is not seen in it. -/
theorem onlyStoresChangeMemory : Obligations.OnlyStoresChangeMemory := by
  intro s t a hw h hne
  obtain ⟨_, rfl⟩ | ⟨_, _, rfl⟩ | ⟨_, _, rfl⟩ | ⟨w, hf⟩ := step_next_cases h
  · exact absurd rfl hne
  · exact absurd rfl hne
  · exact absurd rfl hne
  · obtain ⟨u, rfl, ⟨i, hi, he⟩ | ⟨_, rfl⟩⟩ := step_next_of_fetches hf h
    · rw [byteAt_of_mem State.endHandler_mem a] at hne
      obtain ⟨ha, hpos⟩ := (exec_next s.beginHandler he).store_of_byteAt_ne hw hne
      exact ⟨ha, w, i, hf, hi, hpos⟩
    · exact absurd (byteAt_of_mem (by simp) a) hne

end Sys2Proof.Machine
end

section
/-! SUPPORT. Words of format B given as their fields side by side (30_encoding.md R94), and where an instruction that is a branch moves
pc_word (45_branch.md R210). -/

namespace Sys2Proof

/-- R94, R111: the eight fields of format B side by side are the word the encoder makes of them. -/
theorem append_eq_encB (offset : BitVec 13) (rs2 rs1 : Reg) (f3 : BitVec 3) (op : BitVec 7) :
    offset.extractLsb' 12 1 ++ offset.extractLsb' 5 6 ++ rs2 ++ rs1 ++ f3 ++ offset.extractLsb' 1 4 ++ offset.extractLsb' 11 1 ++ op
      = encB offset rs2 rs1 f3 op := by
  apply BitVec.eq_of_getLsbD_eq
  intro i hi
  simp only [encB, place, BitVec.getLsbD_append, BitVec.getLsbD_or, BitVec.getLsbD_shiftLeft, BitVec.getLsbD_setWidth]
  interval_cases i <;> simp

/-- An instruction encoded in format B is what its fields side by side decode to, where the offset is even (R89). -/
theorem decode_append_of_encode_encB {i : Instr} {offset : BitVec 13} {rs2 rs1 : Reg} {f3 : BitVec 3} {op : BitVec 7}
    (h : encode i = encB offset rs2 rs1 f3 op) (hwf : i.wellFormed = branchOffsetEven offset) (h0 : offset.getLsbD 0 = false) :
    decode (offset.extractLsb' 12 1 ++ offset.extractLsb' 5 6 ++ rs2 ++ rs1 ++ f3 ++ offset.extractLsb' 1 4
      ++ offset.extractLsb' 11 1 ++ op) = .ok i := by
  have heven : i.wellFormed = true := by rw [hwf, branchOffsetEven, h0, Bool.not_false]
  rw [append_eq_encB, ← h, decode_encode heven]

/-- R10: sign extension keeps the signed value. -/
theorem toInt_sext13 (offset : BitVec 13) : (sext13 offset).toInt = offset.toInt :=
  BitVec.toInt_signExtend_of_le (by omega)

namespace Machine

/-- R27, R89: a branch offset in words, as an integer quotient rounded toward zero. -/
theorem sdiv4_sext13 (offset : BitVec 13) : sdiv4 (sext13 offset) = offset.toInt.tdiv 4 := by
  rw [sdiv4, toInt_sext13]

/-- R210: an instruction whose meaning is a branch taken exactly when `p` moves pc_word by the offset when `p`, else by one, and changes
nothing else. -/
theorem exists_next_branch_movesOnly {i : Instr} {s : State} {taken : Bool} {offset : BitVec 13} {p : Prop} [Decidable p]
    (h : exec i s = .next (s.branchOn taken offset)) (hp : taken = true ↔ p) :
    ∃ t, exec i s = .next t ∧ MovesOnly s t (if p then s.pcWord + offset.toInt.tdiv 4 else s.pcWord + 1) := by
  have hmove := branchOn_movesOnly s taken offset
  simp only [hp, sdiv4_sext13] at hmove
  exact ⟨_, h, hmove⟩

variable (a b : Word)

/-- R213: `<s` over integers. -/
theorem signedLess_iff : signedLess a b = true ↔ a.toInt < b.toInt := BitVec.slt_iff_toInt_lt

/-- R215: `<u` over natural numbers. -/
theorem unsignedLess_iff : unsignedLess a b = true ↔ a.toNat < b.toNat := BitVec.ult_iff_toNat_lt

/-- R214: the complement of `<s`. -/
theorem not_signedLess_iff : (!signedLess a b) = true ↔ b.toInt ≤ a.toInt := by
  rw [Bool.not_eq_true', ← Bool.not_eq_true, signedLess_iff, not_lt]

/-- R216: the complement of `<u`. -/
theorem not_unsignedLess_iff : (!unsignedLess a b) = true ↔ b.toNat ≤ a.toNat := by
  rw [Bool.not_eq_true', ← Bool.not_eq_true, unsignedLess_iff, not_lt]

end Machine
end Sys2Proof
end

section
/-! The conditional branches (45_branch.md): the words of each, where it moves pc_word, and that it changes nothing else. -/

namespace Sys2Proof.Machine

/-- Settles O42: BNE is taken when the operands are not equal, so its two targets stand the other way round. -/
theorem branchesOnEquality : Obligations.BranchesOnEquality := by
  intro rs1 rs2 offset s
  refine ⟨fun h0 => ⟨decode_append_of_encode_encB rfl rfl h0, decode_append_of_encode_encB rfl rfl h0⟩, ?_, ?_⟩
  · exact exists_next_branch_movesOnly rfl decide_eq_true_iff
  · rw [← ite_not]
    exact exists_next_branch_movesOnly rfl decide_eq_true_iff

/-- Settles O43: the two conditions are a signed comparison and its complement. -/
theorem branchesOnSignedOrder : Obligations.BranchesOnSignedOrder := by
  intro rs1 rs2 offset s
  refine ⟨fun h0 => ⟨decode_append_of_encode_encB rfl rfl h0, decode_append_of_encode_encB rfl rfl h0⟩, ?_, ?_⟩
  · exact exists_next_branch_movesOnly rfl (signedLess_iff _ _)
  · exact exists_next_branch_movesOnly rfl (not_signedLess_iff _ _)

/-- Settles O44: the two conditions are an unsigned comparison and its complement. -/
theorem branchesOnUnsignedOrder : Obligations.BranchesOnUnsignedOrder := by
  intro rs1 rs2 offset s
  refine ⟨fun h0 => ⟨decode_append_of_encode_encB rfl rfl h0, decode_append_of_encode_encB rfl rfl h0⟩, ?_, ?_⟩
  · exact exists_next_branch_movesOnly rfl (unsignedLess_iff _ _)
  · exact exists_next_branch_movesOnly rfl (not_unsignedLess_iff _ _)

end Sys2Proof.Machine
end

section
/-! SUPPORT. Words of format J given as their fields side by side (30_encoding.md R94), the targets of the two jumps over integers, and
what an instruction that is a jump changes (46_jal_jalr.md R220 to R223). -/

namespace Sys2Proof

/-- R94, R111: the six fields of format J side by side are the word the encoder makes of them. -/
theorem append_eq_encJ (offset : BitVec 21) (rd : Reg) (op : BitVec 7) :
    offset.extractLsb' 20 1 ++ offset.extractLsb' 1 10 ++ offset.extractLsb' 11 1 ++ offset.extractLsb' 12 8 ++ rd ++ op
      = encJ offset rd op := by
  apply BitVec.eq_of_getLsbD_eq
  intro i hi
  simp only [encJ, place, BitVec.getLsbD_append, BitVec.getLsbD_or, BitVec.getLsbD_shiftLeft, BitVec.getLsbD_setWidth]
  interval_cases i <;> simp

/-- R10: sign extension keeps the signed value. -/
theorem toInt_sext21 (offset : BitVec 21) : (sext21 offset).toInt = offset.toInt :=
  BitVec.toInt_signExtend_of_le (by omega)

namespace Machine

/-- R27, R91: a jump offset in words, as an integer quotient rounded toward zero. -/
theorem sdiv4_sext21 (offset : BitVec 21) : sdiv4 (sext21 offset) = offset.toInt.tdiv 4 := by
  rw [sdiv4, toInt_sext21]

/-- R222: clearing bit 0 rounds down to the even number below, modulo 2^32. -/
theorem ofInt_and_clearBit0 (x : Int) : BitVec.ofInt 32 x &&& 0xFFFFFFFE#32 = BitVec.ofInt 32 (2 * (x / 2)) := by
  have hmask : 0xFFFFFFFE#32 = BitVec.allOnes 32 <<< 1 := by decide
  rw [hmask, ← BitVec.shiftLeft_ushiftRight, ← BitVec.toNat_inj]
  simp only [BitVec.toNat_shiftLeft, BitVec.toNat_ushiftRight, BitVec.toNat_ofInt, Nat.shiftLeft_eq, Nat.shiftRight_eq_div_pow]
  omega

/-- R222: the target of JALR over integers. -/
theorem jalrTarget_eq_tdiv (s : State) (rs1 : Reg) (imm : BitVec 12) :
    s.jalrTarget rs1 imm = (BitVec.ofInt 32 (2 * (((s.readReg rs1).toInt + imm.toInt) / 2))).toInt.tdiv 4 := by
  rw [State.jalrTarget, effectiveAddress_eq_ofInt, ofInt_and_clearBit0, sdiv4]

/-- R25: below index 2^29 the byte address of a word is not negative when read as signed (D8). -/
theorem toInt_byteAddress {k : Int} (h0 : 0 ≤ k) (hlt : k < 2 ^ 29) : (byteAddress k).toInt = 4 * k :=
  BitVec.toInt_ofInt_eq_self (by decide) (by omega) (by omega)

/-- R223: JALR through a register that holds the byte address of a word goes to that word. -/
theorem jalrTarget_of_byteAddress {s : State} {rs1 : Reg} {k : Int} (hr : s.readReg rs1 = byteAddress k) (h0 : 0 ≤ k)
    (hlt : k < 2 ^ 29) : s.jalrTarget rs1 0#12 = k := by
  have heven : 2 * (((s.readReg rs1).toInt + (0#12).toInt) / 2) = 4 * k := by
    rw [hr, toInt_byteAddress h0 hlt, BitVec.toInt_zero]
    omega
  rw [jalrTarget_eq_tdiv, heven, ← byteAddress, toInt_byteAddress h0 hlt, Int.mul_tdiv_cancel_left k (by decide)]

/-- R220: an instruction whose meaning is a jump to `p` writes the link to rd and changes nothing else, for any other form `p'` of `p`. -/
theorem exists_next_jump_writesOnly {i : Instr} {s : State} {rd : Reg} {p p' : Int}
    (h : exec i s = .next ((s.writeReg rd s.link).jumpTo p)) (hp : p = p') :
    ∃ t, exec i s = .next t ∧ WritesOnly s t rd (BitVec.ofInt 32 (4 * (s.pcWord + 1))) p' :=
  ⟨_, h, hp ▸ link_writesOnly s rd s.link p⟩

/-- R22: what writes only to x0 changes no register. -/
theorem WritesOnly.sameRegisters_of_x0 {s t : State} {v : Word} {p : Int} (h : WritesOnly s t 0#5 v p) : SameRegisters s t := by
  obtain ⟨-, hother, -⟩ := h
  intro r
  by_cases hr : r = 0#5
  · rw [hr, readReg_zero, readReg_zero]
  · exact hother r hr

end Machine
end Sys2Proof
end

section
/-! The jumps (46_jal_jalr.md): the words of each, the link, the target, and that they change nothing else. -/

namespace Sys2Proof.Machine

/-- Settles O46: the target is relative, by the signed quotient of the offset. -/
theorem jalLinksAndJumpsRelative : Obligations.JalLinksAndJumpsRelative := by
  intro rd offset s
  refine ⟨fun h0 => ?_, exists_next_jump_writesOnly rfl (by rw [sdiv4_sext21])⟩
  have heven : (Instr.jal rd offset).wellFormed = true := by rw [Instr.wellFormed, jumpOffsetEven, h0, Bool.not_false]
  rw [append_eq_encJ]
  exact decode_encode heven

/-- Settles O47: the target is taken from the state before the link is written, so rd may be rs1. -/
theorem jalrLinksAndJumpsAbsolute : Obligations.JalrLinksAndJumpsAbsolute :=
  fun _ _ _ _ => ⟨decode_append_of_encode_encI rfl rfl, exists_next_jump_writesOnly rfl (jalrTarget_eq_tdiv _ _ _)⟩

/-- Settles O48: the link is the byte address of the next word, and the premise on the index keeps it below 2^31. -/
theorem callThenReturnReachesTheNextWord : Obligations.CallThenReturnReachesTheNextWord := by
  intro rd offset s hrd h0 hlt
  obtain ⟨t, ht, hlink, -⟩ := exists_next_jump_writesOnly (i := .jal rd offset) (s := s) rfl rfl
  refine ⟨t, ht, fun u hu => ?_⟩
  have hret : u.readReg rd = byteAddress (s.pcWord + 1) := by rw [hu, hlink, if_neg hrd, byteAddress]
  obtain ⟨v, hv, hw⟩ := exists_next_jump_writesOnly (i := .jalr 0#5 rd 0#12) (s := u) rfl
    (jalrTarget_of_byteAddress hret (by omega) (by omega))
  have hsame := hw.sameRegisters_of_x0
  obtain ⟨-, -, hpc, -⟩ := hw
  exact ⟨v, hv, hpc, hsame⟩

end Sys2Proof.Machine
end

section
/-! SUPPORT. Words of format U given as their fields side by side (30_encoding.md R94), and the U immediate over integers (R90,
47_lui_auipc.md R230, R231). -/

namespace Sys2Proof

/-- R94, R111: the three fields of format U side by side are the word the encoder makes of them. -/
theorem append_eq_encU (imm20 : BitVec 20) (rd : Reg) (op : BitVec 7) : imm20 ++ rd ++ op = encU imm20 rd op := by
  apply BitVec.eq_of_getLsbD_eq
  intro i hi
  simp only [encU, place, BitVec.getLsbD_append, BitVec.getLsbD_or, BitVec.getLsbD_shiftLeft, BitVec.getLsbD_setWidth]
  interval_cases i <;> simp

/-- An instruction encoded in format U is what its fields side by side decode to. -/
theorem decode_append_of_encode_encU {i : Instr} {imm20 : BitVec 20} {rd : Reg} {op : BitVec 7} (h : encode i = encU imm20 rd op)
    (hwf : i.wellFormed = true) : decode (imm20 ++ rd ++ op) = .ok i := by
  rw [append_eq_encU, ← h, decode_encode hwf]

/-- R90: the U immediate is its field times 4096. -/
theorem upperImm_eq_ofNat (imm20 : BitVec 20) : upperImm imm20 = BitVec.ofNat 32 (imm20.toNat * 4096) := by
  have hlt := imm20.isLt
  rw [← BitVec.toNat_inj, upperImm, BitVec.toNat_append, BitVec.toNat_ofNat, BitVec.toNat_ofNat, Nat.shiftLeft_eq, Nat.or_zero]
  omega

namespace Machine

/-- R231: the byte address of the instruction plus the U immediate, modulo 2^32. -/
theorem pc_add_upperImm_eq_ofInt (s : State) (imm20 : BitVec 20) :
    s.pc + upperImm imm20 = BitVec.ofInt 32 (4 * s.pcWord + imm20.toNat * 4096) := by
  rw [upperImm_eq_ofNat, BitVec.ofInt_add, State.pc, byteAddress, ← BitVec.ofInt_natCast]
  norm_cast

end Machine
end Sys2Proof
end

section
/-! The upper-immediate instructions (47_lui_auipc.md): the words of each, its result, and that it changes nothing else. -/

namespace Sys2Proof.Machine

/-- Settles O49: the immediate alone, and added to the byte address of the instruction. -/
theorem upperImmediates : Obligations.UpperImmediates := by
  intro rd imm20 s
  refine ⟨decode_append_of_encode_encU rfl rfl, ?_, decode_append_of_encode_encU rfl rfl, ?_⟩
  · exact exists_next_writesOnly rfl (upperImm_eq_ofNat _)
  · exact exists_next_writesOnly rfl (pc_add_upperImm_eq_ofInt _ _)

end Sys2Proof.Machine
end

section
/-! The instructions that only advance pc_word: the fences (48_fence.md), and EBREAK and the CSR instructions (49_system.md R260 to
R266). -/

namespace Sys2Proof.Machine

/-- R13: an instruction whose meaning is to advance pc_word changes nothing else. -/
theorem exists_next_advance_movesOnly {i : Instr} {s : State} (h : exec i s = .next s.advance) :
    ∃ t, exec i s = .next t ∧ MovesOnly s t (s.pcWord + 1) :=
  ⟨_, h, advance_movesOnly s⟩

/-- Settles O50: the ignored fields of FENCE are the immediate bits of format I. -/
theorem fencesOnlyAdvance : Obligations.FencesOnlyAdvance := fun _ _ _ _ _ _ _ =>
  ⟨decode_append_of_encode_encI rfl rfl, exists_next_advance_movesOnly rfl,
    decode_append_of_encode_encI rfl rfl, exists_next_advance_movesOnly rfl⟩

/-- Settles O51: seven words of format I, and seven meanings that are the advance of pc_word. -/
theorem ebreakAndCsrOnlyAdvance : Obligations.EbreakAndCsrOnlyAdvance := by
  intro rd rs1 csr uimm s
  refine ⟨?_, ?_, ?_, ?_, ?_, ?_, ?_, ?_, ?_, ?_, ?_, ?_, ?_, ?_⟩
  iterate 7 exact exists_next_advance_movesOnly rfl
  iterate 7 exact decode_append_of_encode_encI rfl rfl

end Sys2Proof.Machine
end

section
/-! SUPPORT. The string of service 4 (49_system.md R253): what is read from an address on. Then what ECALL is, and what the effects
of its services leave unchanged. -/

namespace Sys2Proof.Machine

variable {s : State} {p : Word}

/-! ### Reading a string -/

/-- R51: a read of one byte in bounds. -/
theorem memRead_one_inBounds (hp : p.toNat < s.cfg.memSize) : s.memRead p 1 = some ((s.byteAt p.toNat).setWidth 32) := by
  rw [memRead_inBounds s hp, Memory.readLE_one, State.byteAt]

/-- R253: a zero byte ends the string. -/
theorem readString_succ_of_zero (fuel : Nat) (hp : p.toNat < s.cfg.memSize) (hzero : s.byteAt p.toNat = 0#8) :
    s.readString (fuel + 1) p = some [] := by
  simp [State.readString, memRead_one_inBounds hp, hzero]

/-- R253: any other byte begins the string that goes on after it. -/
theorem readString_succ_of_ne_zero (fuel : Nat) (hp : p.toNat < s.cfg.memSize) (hne : s.byteAt p.toNat ≠ 0#8) :
    s.readString (fuel + 1) p = (s.readString fuel (p + 1#32)).map (s.byteAt p.toNat :: ·) := by
  simp [State.readString, memRead_one_inBounds hp, hne]

/-- R253: from an address out of bounds no string is read. -/
theorem readString_outOfBounds (fuel : Nat) (hp : ¬ p.toNat < s.cfg.memSize) : s.readString fuel p = none := by
  cases fuel with
  | zero => rfl
  | succ fuel => rw [State.readString, memRead_outOfBounds s hp]

/-- R53: the address after one in bounds does not wrap. -/
theorem toNat_succ_of_lt_memSize (hc : s.ConfigInRange) (hp : p.toNat < s.cfg.memSize) : (p + 1#32).toNat = p.toNat + 1 :=
  toNat_add_of_inBounds (k := 1) hc hp le_rfl

/-- R253: the bytes up to the first zero byte, where there is one in the memory. -/
theorem readString_of_terminated (hc : s.ConfigInRange) {n fuel : Nat} (hfuel : n < fuel) (hn : p.toNat + n < s.cfg.memSize)
    (hbefore : ∀ i, i < n → s.byteAt (p.toNat + i) ≠ 0#8) (hzero : s.byteAt (p.toNat + n) = 0#8) :
    s.readString fuel p = some ((List.range n).map fun i => s.byteAt (p.toNat + i)) := by
  induction n generalizing p fuel with
  | zero =>
    obtain ⟨fuel, rfl⟩ := Nat.exists_eq_add_one_of_ne_zero hfuel.ne'
    exact readString_succ_of_zero fuel hn hzero
  | succ n ih =>
    obtain ⟨fuel, rfl⟩ := Nat.exists_eq_add_one_of_ne_zero (Nat.ne_zero_of_lt hfuel)
    have hp : p.toNat < s.cfg.memSize := by omega
    have hnext := toNat_succ_of_lt_memSize hc hp
    have hplace (i : Nat) : p.toNat + 1 + i = p.toNat + (i + 1) := by omega
    have hrest : s.readString fuel (p + 1#32) = some ((List.range n).map fun i => s.byteAt (p.toNat + (i + 1))) := by
      simpa only [hnext, hplace] using ih (p := p + 1#32) (fuel := fuel) (by omega) (by omega)
        (fun i hi => by rw [hnext, hplace]; exact hbefore (i + 1) (by omega)) (by rw [hnext, hplace]; exact hzero)
    rw [readString_succ_of_ne_zero fuel hp (hbefore 0 (by omega)), hrest, List.range_succ_eq_map, List.map_cons, List.map_map]
    rfl

/-- R253, R284: where no byte up to the end of the memory is zero, the string runs out of bounds. -/
theorem readString_of_unterminated (hc : s.ConfigInRange) (fuel : Nat)
    (h : ∀ n, p.toNat + n < s.cfg.memSize → s.byteAt (p.toNat + n) ≠ 0#8) : s.readString fuel p = none := by
  induction fuel generalizing p with
  | zero => rfl
  | succ fuel ih =>
    by_cases hp : p.toNat < s.cfg.memSize
    · have hnext := toNat_succ_of_lt_memSize hc hp
      have hrest : s.readString fuel (p + 1#32) = none := ih fun n hn => by
        rw [hnext, Nat.add_assoc] at hn ⊢
        exact h (1 + n) hn
      rw [readString_succ_of_ne_zero fuel hp (h 0 hp), hrest, Option.map_none]
    · exact readString_outOfBounds _ hp

/-! ### The services -/

/-- R251: ECALL, whatever its fields, leaves the state its environment call leaves. -/
theorem exec_ecall {t : State} (rs1 rd : Reg) (h : s.environmentCall = t) : exec (.ecall rs1 rd) s = .next t :=
  congrArg _ h

variable (s)

/-- R36: an event emitted, pc_word + 1. -/
theorem emit_advance_emitsOnly (e : Event) : EmitsOnly s (s.emit e).advance e :=
  ⟨rfl, rfl, fun _ => rfl, fun _ => rfl, rfl, rfl, rfl⟩

/-- R283: a report, pc_word + 1. -/
theorem report_advance_reportsOnly (k : ErrorKind) : ReportsOnly s (s.report k).advance k :=
  ⟨rfl, rfl, fun _ => rfl, fun _ => rfl, rfl, rfl, rfl⟩

/-- R255, R257: the run ended, pc_word + 1 (D17). -/
theorem halt_advance_exitsOnly (c : Word) : ExitsOnly s (s.halt c).advance c :=
  ⟨rfl, rfl, rfl, fun _ => rfl, fun _ => rfl, rfl, rfl⟩

/-- R253: service 4 where a string is read. -/
theorem servicePrintString_of_some {bytes : List Byte} (h : s.stringAt (s.readReg 11#5) = some bytes) :
    s.servicePrintString = (s.emit (.printString bytes)).advance := by
  rw [State.servicePrintString, h]

/-- R253: service 4 where no string is read. -/
theorem servicePrintString_of_none (h : s.stringAt (s.readReg 11#5) = none) :
    s.servicePrintString = s.raise .outOfBoundsMemoryAccess := by
  rw [State.servicePrintString, h]

end Sys2Proof.Machine
end

section
/-! The environment call (49_system.md R251 to R258): its word, and what each service does and leaves unchanged. -/

namespace Sys2Proof.Machine

/-- Settles O52: the dispatch on x10, then the one event each service emits. -/
theorem ecallPrintsIntegerAndCharacter : Obligations.EcallPrintsIntegerAndCharacter := by
  refine fun rs1 rd s => ⟨decode_append_of_encode_encI rfl rfl, fun h => ?_, fun h => ?_⟩
  · exact ⟨s.servicePrintInt, exec_ecall rs1 rd (by simp [environmentCall_eq, h]), emit_advance_emitsOnly s _⟩
  · exact ⟨s.servicePrintChar, exec_ecall rs1 rd (by simp [environmentCall_eq, h]), emit_advance_emitsOnly s _⟩

/-- Settles O53: the string at x11 is the bytes up to the first zero byte, or there is none. -/
theorem ecallPrintsStringUpToZero : Obligations.EcallPrintsStringUpToZero := by
  rintro rs1 rd s _ hc h rfl
  have hcall : s.environmentCall = s.servicePrintString := by simp [environmentCall_eq, h]
  refine ⟨fun n hn hbefore hzero => ?_, fun hnone => ?_⟩
  · have hstring := readString_of_terminated hc (fuel := s.cfg.memSize + 1) (by omega) hn hbefore hzero
    exact ⟨_, exec_ecall rs1 rd (hcall.trans (servicePrintString_of_some s hstring)), emit_advance_emitsOnly s _⟩
  · have hstring := readString_of_unterminated hc (s.cfg.memSize + 1) hnone
    exact ⟨_, exec_ecall rs1 rd (hcall.trans (servicePrintString_of_none s hstring)), raise_failsWith s _⟩

/-- Settles O54: the dispatch on x10, then the code each service exits with. -/
theorem ecallExits : Obligations.EcallExits := by
  refine fun rs1 rd s => ⟨fun h => ?_, fun h => ?_⟩
  · exact ⟨s.serviceExit, exec_ecall rs1 rd (by simp [environmentCall_eq, h]), halt_advance_exitsOnly s _⟩
  · exact ⟨s.serviceExitCode, exec_ecall rs1 rd (by simp [environmentCall_eq, h]), halt_advance_exitsOnly s _⟩

/-- Settles O55: the reserved code advances pc_word, and a code that is none of the six falls through the dispatch. -/
theorem ecallReservedAndUnknownCodes : Obligations.EcallReservedAndUnknownCodes := by
  refine fun rs1 rd s => ⟨fun h => ?_, fun h => ?_⟩
  · exact ⟨s.serviceReserved, exec_ecall rs1 rd (by simp [environmentCall_eq, h]), advance_movesOnly s⟩
  · simp only [List.mem_cons, List.not_mem_nil, or_false, not_or] at h
    exact ⟨s.serviceUnknown, exec_ecall rs1 rd (by simp [environmentCall_eq, h]), report_advance_reportsOnly s _⟩

end Sys2Proof.Machine
end

section
/-! The events (60_exceptions.md R281 to R288): the failure at a negative index and where such an index comes from, and the exact
state after a step that reports or fails. -/

namespace Sys2Proof.Machine

variable {s t : State} {i : Instr} {w : Word} {k : ErrorKind} {n : Int}

/-! ### A negative index (R287) -/

theorem step_of_negative (hc : s.ConfigInRange) (hs : s.status = .running) (hp : s.pcWord < 0) :
    step s = .next (s.raise .pcOutOfRange) :=
  step_of_fetchOrEnd_error hc (fetchOrEnd_of_negative hs hp)

/-- R26 (a), R130: a step that executes a word moves pc_word by one or leaves it, unless the word is a control transfer. -/
theorem controlTransfer_or_pcWord_le_of_fetches (hf : s.Fetches w) (h : step s = .next t) :
    (∃ i, decode w = .ok i ∧ i.controlTransfer = true) ∨ s.pcWord ≤ t.pcWord := by
  obtain ⟨u, rfl, ⟨i, hi, he⟩ | ⟨_, rfl⟩⟩ := step_next_of_fetches hf h
  · cases hct : i.controlTransfer with
    | true => exact .inl ⟨i, hi, hct⟩
    | false =>
      right
      rw [State.endHandler_pcWord]
      obtain hpc | ⟨_, _, _, _, hpc, _⟩ := (exec_next _ he).pcWord_of_not_controlTransfer hct
      · rw [hpc, State.beginHandler_pcWord]; omega
      · exact hpc.ge
  · right
    rw [State.endHandler_pcWord]
    exact (Int.lt_succ _).le

/-- Settles O11: a step that executes no word leaves pc_word, and a word that is no control transfer does not lower it. -/
theorem negativePcWordFails : Obligations.NegativePcWordFails := by
  refine ⟨fun s hc hs hp => step_of_negative hc hs hp, fun s t h h0 hneg => ?_⟩
  obtain ⟨_, rfl⟩ | ⟨_, _, rfl⟩ | ⟨_, _, rfl⟩ | ⟨w, hf⟩ := step_next_cases h
  · exact absurd hneg h0.not_gt
  · exact absurd hneg h0.not_gt
  · exact absurd hneg h0.not_gt
  · obtain ⟨i, hi, hct⟩ | hle := controlTransfer_or_pcWord_le_of_fetches hf h
    · exact ⟨w, i, hf, hi, hct⟩
    · exact absurd hneg (h0.trans hle).not_gt

/-! ### A report (R281, R283, R285) -/

/-- R285: of the shapes an instruction leaves, only an environment call with an unknown code has a report as its result. -/
theorem ExecEffect.eq_of_report (he : ExecEffect i s t) (hok : s.result = some .ok) (ht : t.result = some (.report k n)) :
    k = .unimplementedEnvironmentCall ∧ t = (s.report k).advance := by
  cases he with
  | reported =>
    obtain ⟨rfl, _⟩ : ErrorKind.unimplementedEnvironmentCall = k ∧ s.pcWord = n := by simpa using ht
    exact ⟨rfl, rfl⟩
  | _ => simp [hok] at ht

/-- The state after a step whose result is a report. -/
theorem step_eq_of_report (h : step s = .next t) (ht : t.result = some (.report k n)) :
    (k = .decodeUnknownOpcode ∨ k = .unimplementedEnvironmentCall) ∧ s.status = .running ∧
      t = (s.report k).advance.endHandler := by
  obtain ⟨_, rfl⟩ | ⟨_, _, rfl⟩ | ⟨_, _, rfl⟩ | ⟨w, hf⟩ := step_next_cases h
  · simp at ht
  · simp at ht
  · simp at ht
  · have ⟨_, hs, _⟩ := hf
    obtain ⟨u, rfl, ⟨i, _, he⟩ | ⟨_, rfl⟩⟩ := step_next_of_fetches hf h
    · obtain ⟨rfl, rfl⟩ := (exec_next _ he).eq_of_report rfl (by simpa using ht)
      exact ⟨.inr rfl, hs, rfl⟩
    · obtain ⟨rfl, _⟩ : ErrorKind.decodeUnknownOpcode = k ∧ s.pcWord = n := by simpa using ht
      exact ⟨.inl rfl, hs, rfl⟩

/-! ### A fatal event (R282, R284, R287) -/

/-- R284: of the shapes an instruction leaves, only a failed access has a fatal result. -/
theorem ExecEffect.eq_of_fatal (he : ExecEffect i s t) (hok : s.result = some .ok) (ht : t.result = some (.fatal k n)) :
    k = .outOfBoundsMemoryAccess ∧ t = s.raise k := by
  cases he with
  | raised =>
    obtain ⟨rfl, _⟩ : ErrorKind.outOfBoundsMemoryAccess = k ∧ s.pcWord = n := by simpa using ht
    exact ⟨rfl, rfl⟩
  | _ => simp [hok] at ht

/-- The state after a step whose result is fatal. -/
theorem step_eq_of_fatal (h : step s = .next t) (ht : t.result = some (.fatal k n)) :
    (k = .outOfBoundsMemoryAccess ∧ 0 ≤ s.pcWord ∨ k = .pcOutOfRange ∧ s.pcWord < 0) ∧ t = s.raise k := by
  obtain ⟨_, rfl⟩ | ⟨_, hneg, rfl⟩ | ⟨_, _, rfl⟩ | ⟨w, hf⟩ := step_next_cases h
  · simp at ht
  · obtain ⟨rfl, _⟩ : ErrorKind.pcOutOfRange = k ∧ s.pcWord = n := by simpa using ht
    exact ⟨.inr ⟨rfl, hneg⟩, rfl⟩
  · simp at ht
  · have ⟨_, _, h0, _⟩ := hf
    obtain ⟨u, rfl, ⟨i, _, he⟩ | ⟨_, rfl⟩⟩ := step_next_of_fetches hf h
    · obtain ⟨rfl, rfl⟩ := (exec_next _ he).eq_of_fatal rfl (by simpa using ht)
      exact ⟨.inl ⟨rfl, h0⟩, rfl⟩
    · simp at ht

/-- Settles O22: the state after either kind of event is known exactly, and its index is the pc_word the step began with. -/
theorem eventsRecordOnlyTheirIndex : Obligations.EventsRecordOnlyTheirIndex := by
  refine fun s t k n h => ⟨fun ht => ?_, fun ht => ?_⟩
  · obtain ⟨hk, hs, rfl⟩ := step_eq_of_report h ht
    obtain rfl : s.pcWord = n := by simpa using ht
    exact ⟨hk, rfl, by simpa using hs, by simp, fun r => by simp, by simp, by simp, by simp⟩
  · obtain ⟨hk, rfl⟩ := step_eq_of_fatal h ht
    obtain rfl : s.pcWord = n := by simpa using ht
    exact ⟨hk, rfl, rfl, rfl, fun _ => rfl, rfl, rfl, rfl⟩

end Sys2Proof.Machine
end

section
/-! Reset (70_reset_and_hazards.md R320, 10_state.md R39, R40), and the words of 95_test_vectors.md. -/

namespace Sys2Proof

/-- R6: 128 KiB, no program and no listed byte. -/
theorem Config.standard_wellFormed : Config.standard.WellFormed := ⟨by decide, rfl, rfl⟩

namespace Machine

/-- R39, R40: the memory is the one the configuration lists, and the stored x0 and pc_word are 0. -/
theorem resetWith_inv {c : Config} (hc : c.WellFormed) : (State.resetWith c).Inv where
  config := hc
  x0Clear := by simp [State.resetWith]
  memCanonical := hc.initCanonical
  memInside := hc.initInside
  pcLow := by simp [State.resetWith]
  pcHigh := by simp [State.resetWith]
  statusAgrees := trivial
  resultAgrees := rfl

/-- Settles O16: the three resets are `State.resetWith` of a well-formed configuration. -/
theorem resetMeetsTheInvariant : Obligations.ResetMeetsTheInvariant :=
  ⟨fun _ => resetWith_inv, fun _ => resetWith_inv, resetWith_inv Config.standard_wellFormed⟩

/-- Settles O8: fourteen closed instances of the decoder. -/
theorem wordsOfTheTestVectorsDecode : Obligations.WordsOfTheTestVectorsDecode := by
  unfold Obligations.WordsOfTheTestVectorsDecode
  decide

end Machine
end Sys2Proof
end
